-- ==== Sys2Proof/Word.lean ====
section
/-! DEFINITION. The word types of the block (00_scope.md R11, R12) and nothing else. -/

namespace Sys2Proof

/-- A 32-bit packet word: the unit of command and response packets (R90), and the pattern of an
`i32` or `u32` value (R12). -/
abbrev Word := BitVec 32

/-- A `u8` of a payload byte stream (R17). -/
abbrev Byte := BitVec 8

/-- A `u64`: a Simple8b word (R97) or a value given to the packer (R174). -/
abbrev U64 := BitVec 64

/-- A command or response packet: a finite list of 32-bit words (R90, R95). -/
abbrev Packet := List Word

end Sys2Proof
end

