-- ==== Sys2Proof/Config.lean ====
section
/-! DEFINITION. What an implementation fixes: the straps of a block instance (00_scope.md R7, R8), the
delta depth, the strap values of the model's reset state, and the free values of what the spec leaves
unspecified. -/

namespace Sys2Proof

/-- The parameter `QRLE_FILL` (44_quality_rle.md R241): the source's absolute fill bound, or the
corrected count. -/
inductive QFill where
  /-- `ABS`: the read length is an absolute bound on the fill index (the default). -/
  | abs
  /-- `CNT`: the read length is a count. -/
  | cnt
  deriving DecidableEq, Repr

/-- The straps `C`, `N`, `R`, sampled while reset is asserted (R7, 70 R390). -/
structure Pins where
  /-- `C`: channels per sample. -/
  C : Nat
  /-- `N`: samples per message. -/
  N : Nat
  /-- `R`: the sampling rate in Hz; read as `PARAM_R` and nothing more (R7). -/
  R : BitVec 32
  deriving DecidableEq, Repr

/-- The parameters fixed per design (70 R390), besides `D`. -/
structure Design where
  /-- `S8TAB`: the Simple8b selector table, rows (count, width) (42_simple8b.md R161). -/
  s8tab : List (Nat × Nat)
  /-- `QRLE_FILL`. -/
  fill : QFill
  deriving DecidableEq, Repr

/-- The parameters of a block instance: what R8 says a model takes as arguments, fixed for the life of the
instance (93 U15; log 1). -/
structure Straps extends Pins, Design
  deriving DecidableEq, Repr

namespace Config

/-- `D`, the number of delta layers: 3, fixed in this hardware (R8, R10, 43_predictor.md R219). -/
abbrev D : Nat := 3

/-- `C` of the model's reset state. DESIGN CHOICE (log 2): unsafe for a claim read at other straps. -/
abbrev resetC : Nat := 2

/-- `N` of the model's reset state. DESIGN CHOICE (log 2): unsafe for a claim read at other straps. -/
abbrev resetN : Nat := 4

/-- `R` of the model's reset state. DESIGN CHOICE (log 2): unsafe for a claim read at other straps. -/
abbrev resetR : BitVec 32 := 4000#32

end Config

/-- Free value: what `OUT[j].values[i]` holds while nothing has written it, in the epoch that the first
argument counts (10_state.md R31, 60_exceptions.md R364: "any value"). Safe (log 5). -/
opaque Config.freeOutValue : Nat → Nat → Nat → Word

/-- Free value: what `OUT[j].quality[i]` holds while nothing has written it, in the epoch that the first
argument counts (10_state.md R31, 60_exceptions.md R364). Safe (log 5). -/
opaque Config.freeOutQuality : Nat → Nat → Nat → Word

/-- Free value: what `RES[i][j]` holds while nothing has written it since the reset that the first
argument counts (10_state.md R28). Safe (log 6). -/
opaque Config.freeRes : Nat → Nat → Nat → Word

/-- Free value: what `RUN[i][r]` holds, as (value, len), while nothing has written it since the reset
that the first argument counts (10_state.md R29). Safe (log 6). -/
opaque Config.freeRun : Nat → Nat → Nat → Word × Word

end Sys2Proof
end

