-- ==== Sys2Proof/Syntax.lean ====
section
/-! DEFINITION. The instructions: one constructor per row of spec/opcode_table.json (30_encoding.md R92,
R97, R110). -/

namespace Sys2Proof

/-- The eleven commands of R92 and the sixteen Simple8b word layouts of R97. -/
inductive Instr where
  /-- `SETXOR b` (40_control_config.md R121). -/
  | setxor (b : Bool)
  /-- `SETSREF i, r`, `r` an `i32` pattern (40_control_config.md R122). -/
  | setsref (i : BitVec 24) (r : Word)
  /-- `RDCSR addr` (40_control_config.md R123). -/
  | rdcsr (addr : BitVec 24)
  /-- `S8PACK [v0, …]` (42_simple8b.md R174). -/
  | s8pack (vs : List U64)
  /-- `S8UNPK [w0, …]` (42_simple8b.md R175). -/
  | s8unpk (ws : List U64)
  /-- `S8UNPKN n, [w0, …]`, `n` a `u32` (42_simple8b.md R176). -/
  | s8unpkn (n : Word) (ws : List U64)
  /-- `ESAMP v=[…] q=[…]` (45_message_encode.md R261). -/
  | esamp (v q : List Word)
  /-- `EFLUSH` (45_message_encode.md R266). -/
  | eflush
  /-- `ECANCEL` (45_message_encode.md R267). -/
  | ecancel
  /-- `DPAY es, [b0 …]`, `es` an `i32` pattern (46_message_decode.md R291). -/
  | dpay (es : Word) (bytes : List Byte)
  /-- `RDOUT j` (46_message_decode.md R298). -/
  | rdout (j : BitVec 24)
  /-- A Simple8b word with selector 0 and its 60 data bits; by default 240 slots of 0 bits (42_simple8b.md
  R161, R164). -/
  | s8wSel0 (data : BitVec 60)
  /-- A Simple8b word with selector 1 and its 60 data bits; by default 120 slots of 0 bits (42_simple8b.md
  R161, R164). -/
  | s8wSel1 (data : BitVec 60)
  /-- A Simple8b word with selector 2 and its 60 data bits; by default 60 slots of 1 bits (42_simple8b.md
  R161, R164). -/
  | s8wSel2 (data : BitVec 60)
  /-- A Simple8b word with selector 3 and its 60 data bits; by default 30 slots of 2 bits (42_simple8b.md
  R161, R164). -/
  | s8wSel3 (data : BitVec 60)
  /-- A Simple8b word with selector 4 and its 60 data bits; by default 20 slots of 3 bits (42_simple8b.md
  R161, R164). -/
  | s8wSel4 (data : BitVec 60)
  /-- A Simple8b word with selector 5 and its 60 data bits; by default 15 slots of 4 bits (42_simple8b.md
  R161, R164). -/
  | s8wSel5 (data : BitVec 60)
  /-- A Simple8b word with selector 6 and its 60 data bits; by default 12 slots of 5 bits (42_simple8b.md
  R161, R164). -/
  | s8wSel6 (data : BitVec 60)
  /-- A Simple8b word with selector 7 and its 60 data bits; by default 10 slots of 6 bits (42_simple8b.md
  R161, R164). -/
  | s8wSel7 (data : BitVec 60)
  /-- A Simple8b word with selector 8 and its 60 data bits; by default 8 slots of 7 bits (42_simple8b.md
  R161, R164). -/
  | s8wSel8 (data : BitVec 60)
  /-- A Simple8b word with selector 9 and its 60 data bits; by default 7 slots of 8 bits (42_simple8b.md
  R161, R164). -/
  | s8wSel9 (data : BitVec 60)
  /-- A Simple8b word with selector 10 and its 60 data bits; by default 6 slots of 10 bits (42_simple8b.md
  R161, R164). -/
  | s8wSel10 (data : BitVec 60)
  /-- A Simple8b word with selector 11 and its 60 data bits; by default 5 slots of 12 bits (42_simple8b.md
  R161, R164). -/
  | s8wSel11 (data : BitVec 60)
  /-- A Simple8b word with selector 12 and its 60 data bits; by default 4 slots of 15 bits (42_simple8b.md
  R161, R164). -/
  | s8wSel12 (data : BitVec 60)
  /-- A Simple8b word with selector 13 and its 60 data bits; by default 3 slots of 20 bits (42_simple8b.md
  R161, R164). -/
  | s8wSel13 (data : BitVec 60)
  /-- A Simple8b word with selector 14 and its 60 data bits; by default 2 slots of 30 bits (42_simple8b.md
  R161, R164). -/
  | s8wSel14 (data : BitVec 60)
  /-- A Simple8b word with selector 15 and its 60 data bits; by default 1 slots of 60 bits (42_simple8b.md
  R161, R164). -/
  | s8wSel15 (data : BitVec 60)
  deriving DecidableEq, Repr

/-- What an instruction is written as: the two formats of spec/opcode_table.json (R110). -/
inductive Encoded where
  /-- Format `CMD`: a command packet, its boundaries supplied by the transport (R90). -/
  | packet (ws : Packet)
  /-- Format `S8B_WORD`: a 64-bit Simple8b word (R97). -/
  | s8word (w : U64)
  deriving DecidableEq, Repr

end Sys2Proof
end

