-- ==== Sys2Proof/WellFormed.lean ====
section
/-! DEFINITION. Which instructions a packet can hold (30_encoding.md R92): the counts that the header's
24-bit argument field carries, and the `C` values and `C` quality words of a sample tuple. -/

namespace Sys2Proof

/-- A count that fits the 24-bit argument field `a` (R91). -/
def fitsArgument (n : Nat) : Bool := n < 2 ^ 24

/-- The check of one instruction, for a block of `c` channels. Operand VALUES out of range are not
illegal encodings (R105), so only lengths are checked. -/
def Instr.wf (c : Nat) : Instr → Bool
  | .setxor _ => true
  | .setsref _ _ => true
  | .rdcsr _ => true
  | .s8pack vs => fitsArgument vs.length
  | .s8unpk ws => fitsArgument ws.length
  | .s8unpkn _ ws => fitsArgument ws.length
  | .esamp v q => v.length == c && q.length == c
  | .eflush => true
  | .ecancel => true
  | .dpay _ bytes => fitsArgument bytes.length
  | .rdout _ => true
  | .s8wSel0 _ => true
  | .s8wSel1 _ => true
  | .s8wSel2 _ => true
  | .s8wSel3 _ => true
  | .s8wSel4 _ => true
  | .s8wSel5 _ => true
  | .s8wSel6 _ => true
  | .s8wSel7 _ => true
  | .s8wSel8 _ => true
  | .s8wSel9 _ => true
  | .s8wSel10 _ => true
  | .s8wSel11 _ => true
  | .s8wSel12 _ => true
  | .s8wSel13 _ => true
  | .s8wSel14 _ => true
  | .s8wSel15 _ => true

end Sys2Proof
end

