-- ==== Sys2Proof/Decode.lean ====
section
/-! DEFINITION. The decoder of command packets and Simple8b words (30_encoding.md R90 to R94, R97, R104),
total and refusing by name; the encoder; the packing of bytes and 64-bit values into packet words
(20_memory.md R65); and the default selector table (42_simple8b.md R161). -/

namespace Sys2Proof

/-! ## Packet words, bytes and 64-bit values (R65, R93) -/

/-- The four bytes of a packet word, most significant first (R65). -/
def wordBytes (w : Word) : List Byte :=
  [w.extractLsb' 24 8, w.extractLsb' 16 8, w.extractLsb' 8 8, w.extractLsb' 0 8]

/-- The packet word whose bytes these are, most significant first (R65). -/
def bytesWord (b0 b1 b2 b3 : Byte) : Word := b0 ++ b1 ++ b2 ++ b3

/-- A byte stream as packet words: byte `k` in word `k / 4`, first byte most significant, unused low
bytes of the last word zero (R65). -/
def packBytes : List Byte → List Word
  | b0 :: b1 :: b2 :: b3 :: rest => bytesWord b0 b1 b2 b3 :: packBytes rest
  | [] => []
  | [b0] => [bytesWord b0 0 0 0]
  | [b0, b1] => [bytesWord b0 b1 0 0]
  | [b0, b1, b2] => [bytesWord b0 b1 b2 0]

/-- The first `len` bytes of a list of packet words; the unused low bytes of the last word are ignored
(R65). -/
def unpackBytes (len : Nat) (ws : List Word) : List Byte := (ws.flatMap wordBytes).take len

/-- A `u64` as two packet words, the high word first (R65). -/
def u64Words (v : U64) : List Word := [v.extractLsb' 32 32, v.extractLsb' 0 32]

/-- A list of `u64` as packet words (R65, R92). -/
def packU64s (vs : List U64) : List Word := vs.flatMap u64Words

/-- The `u64` values of a list of packet words, two words each, high word first (R93). -/
def unpackU64s : List Word → List U64
  | hi :: lo :: rest => (hi ++ lo) :: unpackU64s rest
  | _ => []

/-! ## The header word (R91, R92) -/

/-- The opcodes of the eleven commands. -/
inductive Opcode where
  | setxor | setsref | rdcsr | s8pack | s8unpk | s8unpkn | esamp | eflush | ecancel | dpay | rdout
  deriving DecidableEq, Repr

/-- The opcode map of R92. -/
def Opcode.code : Opcode → BitVec 8
  | .setxor => 0x01#8
  | .setsref => 0x02#8
  | .rdcsr => 0x03#8
  | .s8pack => 0x10#8
  | .s8unpk => 0x11#8
  | .s8unpkn => 0x12#8
  | .esamp => 0x20#8
  | .eflush => 0x21#8
  | .ecancel => 0x22#8
  | .dpay => 0x30#8
  | .rdout => 0x31#8

/-- The opcode of a byte, if it is one of the eleven; the other 245 values are reserved (R104). -/
def opcodeOf (b : BitVec 8) : Option Opcode :=
  if b = 0x01#8 then some .setxor
  else if b = 0x02#8 then some .setsref
  else if b = 0x03#8 then some .rdcsr
  else if b = 0x10#8 then some .s8pack
  else if b = 0x11#8 then some .s8unpk
  else if b = 0x12#8 then some .s8unpkn
  else if b = 0x20#8 then some .esamp
  else if b = 0x21#8 then some .eflush
  else if b = 0x22#8 then some .ecancel
  else if b = 0x30#8 then some .dpay
  else if b = 0x31#8 then some .rdout
  else none

/-- `op = w0[31:24]` (R91). -/
def opField (w0 : Word) : BitVec 8 := w0.extractLsb' 24 8

/-- `a = w0[23:0]` (R91). -/
def argField (w0 : Word) : BitVec 24 := w0.extractLsb' 0 24

/-- The header word of an opcode and an argument (R91). -/
def header (op : Opcode) (a : BitVec 24) : Word := op.code ++ a

/-- The fields R92 says must be 0 are 0: `a[23:1]` of `SETXOR`, all of `a` of `ESAMP`, `EFLUSH`,
`ECANCEL`. -/
def fixedFieldsZero (op : Opcode) (a : BitVec 24) : Bool :=
  match op with
  | .setxor => a.extractLsb' 1 23 == 0#23
  | .esamp | .eflush | .ecancel => a == 0#24
  | _ => true

/-- The packet length, in words, that R94 finds from the opcode, the argument and `C` alone. -/
def packetLength (c : Nat) (op : Opcode) (a : BitVec 24) : Nat :=
  match op with
  | .setxor | .rdcsr | .eflush | .ecancel | .rdout => 1
  | .setsref => 2
  | .s8pack | .s8unpk => 1 + 2 * a.toNat
  | .s8unpkn => 2 + 2 * a.toNat
  | .esamp => 1 + 2 * c
  | .dpay => 2 + (a.toNat + 3) / 4

/-! ## Decoding -/

/-- Why a packet is no command: the four cases of R104. -/
inductive Illegal where
  /-- Case (1): zero words. -/
  | emptyPacket
  /-- Case (2): an opcode that is not assigned. -/
  | unassignedOpcode (w0 : Word)
  /-- Case (3): a field that must be 0 is not 0. -/
  | nonzeroField (w0 : Word)
  /-- Case (4): the packet length differs from the length of R94. -/
  | wrongLength (w0 : Word)
  deriving DecidableEq, Repr

/-- The info word of the fault: `w0`, or 0 for an empty packet (R104). -/
def Illegal.info : Illegal → Word
  | .emptyPacket => 0
  | .unassignedOpcode w0 => w0
  | .nonzeroField w0 => w0
  | .wrongLength w0 => w0

/-- The operands of a packet whose checks have passed, from the argument field and the words after the
header (R92, R93). -/
def assemble (c : Nat) (op : Opcode) (a : BitVec 24) (ws : List Word) : Instr :=
  match op with
  | .setxor => .setxor (a.getLsbD 0)
  | .setsref => .setsref a (ws.headD 0)
  | .rdcsr => .rdcsr a
  | .s8pack => .s8pack (unpackU64s ws)
  | .s8unpk => .s8unpk (unpackU64s ws)
  | .s8unpkn => .s8unpkn (ws.headD 0) (unpackU64s ws.tail)
  | .esamp => .esamp (ws.take c) (ws.drop c)
  | .eflush => .eflush
  | .ecancel => .ecancel
  | .dpay => .dpay (ws.headD 0) (unpackBytes a.toNat ws.tail)
  | .rdout => .rdout a

/-- The command of a packet, for a block of `c` channels, or why there is none; the checks in the order
of R104. -/
def decodePacket (c : Nat) (p : Packet) : Except Illegal Instr :=
  match p with
  | [] => .error .emptyPacket
  | w0 :: ws =>
    match opcodeOf (opField w0) with
    | none => .error (.unassignedOpcode w0)
    | some op =>
      if fixedFieldsZero op (argField w0) = false then .error (.nonzeroField w0)
      else if (w0 :: ws).length ≠ packetLength c op (argField w0) then .error (.wrongLength w0)
      else .ok (assemble c op (argField w0) ws)

/-- `sel = w[63:60]` (R97). -/
def selField (w : U64) : BitVec 4 := w.extractLsb' 60 4

/-- `data = w[59:0]` (R97). -/
def dataField (w : U64) : BitVec 60 := w.extractLsb' 0 60

/-- The Simple8b word of a selector and its data bits (R97). -/
def s8Word (sel : BitVec 4) (data : BitVec 60) : U64 := sel ++ data

/-- The layout of a Simple8b word; all 16 selectors are legal (R99). -/
def decodeS8Word (w : U64) : Instr :=
  match (selField w).toNat with
  | 0 => .s8wSel0 (dataField w)
  | 1 => .s8wSel1 (dataField w)
  | 2 => .s8wSel2 (dataField w)
  | 3 => .s8wSel3 (dataField w)
  | 4 => .s8wSel4 (dataField w)
  | 5 => .s8wSel5 (dataField w)
  | 6 => .s8wSel6 (dataField w)
  | 7 => .s8wSel7 (dataField w)
  | 8 => .s8wSel8 (dataField w)
  | 9 => .s8wSel9 (dataField w)
  | 10 => .s8wSel10 (dataField w)
  | 11 => .s8wSel11 (dataField w)
  | 12 => .s8wSel12 (dataField w)
  | 13 => .s8wSel13 (dataField w)
  | 14 => .s8wSel14 (dataField w)
  | _ => .s8wSel15 (dataField w)

/-- The instruction of what is presented, for a block of `c` channels. -/
def decode (c : Nat) : Encoded → Except Illegal Instr
  | .packet ws => decodePacket c ws
  | .s8word w => .ok (decodeS8Word w)

/-! ## Encoding -/

/-- The packet or word of an instruction (R92, R97). -/
def encode : Instr → Encoded
  | .setxor b => .packet [header .setxor (if b then 1 else 0)]
  | .setsref i r => .packet [header .setsref i, r]
  | .rdcsr addr => .packet [header .rdcsr addr]
  | .s8pack vs => .packet (header .s8pack (BitVec.ofNat 24 vs.length) :: packU64s vs)
  | .s8unpk ws => .packet (header .s8unpk (BitVec.ofNat 24 ws.length) :: packU64s ws)
  | .s8unpkn n ws => .packet (header .s8unpkn (BitVec.ofNat 24 ws.length) :: n :: packU64s ws)
  | .esamp v q => .packet (header .esamp 0 :: (v ++ q))
  | .eflush => .packet [header .eflush 0]
  | .ecancel => .packet [header .ecancel 0]
  | .dpay es bytes => .packet (header .dpay (BitVec.ofNat 24 bytes.length) :: es :: packBytes bytes)
  | .rdout j => .packet [header .rdout j]
  | .s8wSel0 data => .s8word (s8Word 0#4 data)
  | .s8wSel1 data => .s8word (s8Word 1#4 data)
  | .s8wSel2 data => .s8word (s8Word 2#4 data)
  | .s8wSel3 data => .s8word (s8Word 3#4 data)
  | .s8wSel4 data => .s8word (s8Word 4#4 data)
  | .s8wSel5 data => .s8word (s8Word 5#4 data)
  | .s8wSel6 data => .s8word (s8Word 6#4 data)
  | .s8wSel7 data => .s8word (s8Word 7#4 data)
  | .s8wSel8 data => .s8word (s8Word 8#4 data)
  | .s8wSel9 data => .s8word (s8Word 9#4 data)
  | .s8wSel10 data => .s8word (s8Word 10#4 data)
  | .s8wSel11 data => .s8word (s8Word 11#4 data)
  | .s8wSel12 data => .s8word (s8Word 12#4 data)
  | .s8wSel13 data => .s8word (s8Word 13#4 data)
  | .s8wSel14 data => .s8word (s8Word 14#4 data)
  | .s8wSel15 data => .s8word (s8Word 15#4 data)

/-! ## The numbering of spec/opcode_table.json -/

/-- The packet whose first words are the low `nbits` bits of `w`, first word in the least significant
bits, and whose other words, up to the length of R94, are zero. -/
def tablePacket (c nbits w : Nat) : Packet :=
  let bits := w % 2 ^ nbits
  let given := (List.range ((nbits + 31) / 32)).map fun k => BitVec.ofNat 32 (bits >>> (32 * k))
  match given with
  | [] => []
  | w0 :: _ =>
    match opcodeOf (opField w0) with
    | none => given
    | some op => given ++ List.replicate (packetLength c op (argField w0) - given.length) 0

/-- What the bits `w` of a row of `nbits` bits stand for: the 64-bit rows are Simple8b words, the others
command packets (R110). -/
def tableEncoded (c nbits w : Nat) : Encoded :=
  if nbits = 64 then .s8word (BitVec.ofNat 64 w) else .packet (tablePacket c nbits w)

/-- The instruction the decoder reads from the bits of a row, on a block with the channel count of the
reset state (log 15). -/
def decodeTableWord (nbits w : Nat) : Option Instr :=
  match decode Config.resetC (tableEncoded Config.resetC nbits w) with
  | .ok i => some i
  | .error _ => none

/-! ## The selector table -/

/-- The default `S8TAB`, rows (count, width) (42_simple8b.md R161; opcode_table.json). PRESUMED by the
spec from general knowledge (93_ G1; log 7): unsafe if the reference's table differs. -/
def s8tabDefault : List (Nat × Nat) :=
  [(240, 0), (120, 0), (60, 1), (30, 2), (20, 3), (15, 4), (12, 5), (10, 6),
   (8, 7), (7, 8), (6, 10), (5, 12), (4, 15), (3, 20), (2, 30), (1, 60)]

end Sys2Proof
end

