-- ==== Sys2Proof/Machine/State.lean ====
section
/-! DEFINITION. The state of the block (10_state.md R20), as plain data; the input items; why a step
stops; and the state after reset (10_state.md R38, 70_reset_and_hazards.md R390). -/

namespace Sys2Proof.Machine

/-- The place of an entry in an indexed array (20_memory.md R60): `(row, column)`; an array with one
index is the row 0. -/
abbrev Index := Nat × Nat

/-- An indexed array: the entries that are listed, indices strictly rising (log 17). What an entry that is
not listed holds is said where each array is read (Machine/Ops.lean). -/
abbrev Table (α : Type) := List (Index × α)

/-- One run of the quality run-length coder: `(value: u32, len: u32)` (10_state.md R29). -/
structure Run where
  value : Word
  len : Word
  deriving DecidableEq, Repr

/-- The encode state machine (10_state.md R23). -/
inductive EState where
  /-- `IDLE = 0`. -/
  | idle
  /-- `ACCUM = 1`. -/
  | accum
  /-- `FINAL = 2`, entered and left inside one command. -/
  | final
  deriving DecidableEq, Repr

/-- One item of input. The step takes them one at a time, in order (20_memory.md R71). -/
inductive Input where
  /-- A command packet (R90), or a bare Simple8b word (log 4). -/
  | command (e : Encoded)
  /-- Reset is asserted and released between commands; `p` are the straps it samples (70_ R390; log 13). -/
  | reset (p : Pins)
  /-- A command is presented, and reset is asserted, with straps `p`, before the command has ended
  (70_ R390; log 13). -/
  | cutShort (e : Encoded) (p : Pins)
  deriving DecidableEq, Repr

/-- Why the machine stops with a fault. Nothing does: "There is no third outcome visible to the host"
(00_scope.md R18). The block's own faults are answered in a response and the block goes on
(60_exceptions.md R361, R366), so they are NEXT states; `FaultKind` lists them. Safe (log 14). -/
inductive Fault where
  deriving DecidableEq, Repr

/-- Why the machine refuses to go on. -/
inductive Refusal where
  /-- Raised by `exec`'s arm of an instruction that has no meaning. No arm does. Safe. -/
  | notModelled (mnemonic : String)
  /-- Raised by `step` when the straps are outside the limits of
  00_scope.md R9 and 42_simple8b.md R161: "a model refuses such a configuration" (70_ R403 (4)). Safe. -/
  | illegalStraps
  /-- Raised by a reset that samples other straps than the instance has: the straps are "fixed for the life
  of the instance", and a model refuses changed ones (93_implementation_defined.md U15, 70_ R403 (4)); that
  this includes straps changed between two resets is the model's reading (DEDUCED, log 12). Safe. -/
  | strapsChanged
  deriving DecidableEq, Repr

/-- The state of one block instance: the list of 10_state.md R20 "and nothing else". No parameter of the
instance is in it (00_scope.md R8). -/
structure Block where
  /-- `CTRL.XOR` (R33); the other 31 bits of `CTRL` are hardwired 0. -/
  ctrlXor : Bool
  /-- `SREF[i]` (R34), an `i32` pattern. -/
  sref : Table Word
  /-- `ESTATE` (R23). -/
  estate : EState
  /-- `J` (R24). -/
  j : Nat
  /-- `PREV[k][i]` (R27). -/
  prev : Table Word
  /-- `RES[i][j]` (R28). -/
  res : Table Word
  /-- `RUN[i][r]` (R29). -/
  run : Table Run
  /-- `RUNCNT[i]` (R29). -/
  runcnt : Table Nat
  /-- `DSUM[k][i]` (R30). -/
  dsum : Table Word
  /-- `OUT[j].values[i]` (R31). -/
  outValues : Table Word
  /-- `OUT[j].quality[i]` (R31). -/
  outQuality : Table Word
  /-- `OUTN` (R32). -/
  outn : Nat
  /-- `FAULTS` (R25). -/
  faults : BitVec 32
  deriving DecidableEq, Repr

/-- What a step acts on: the state of the block, and beside it the arguments of the model and its own
fields. -/
structure State extends Block where
  /-- The parameters of the instance: the arguments of the model (00_scope.md R8), not state of the block.
  No step writes them (log 1). -/
  straps : Straps
  /-- The model's own: what the host has presented and the block has not taken, oldest first (log 3). -/
  port : List Input
  /-- The model's own: the response packets produced, oldest first (R95; log 3). -/
  responses : List Packet
  /-- The model's own: how often `OUT` became unspecified; picks the free values of `OUT` (log 5). -/
  outEpoch : Nat
  /-- The model's own: how often the block was reset; picks the free values of `RES`, `RUN` (log 6). -/
  memEpoch : Nat
  deriving DecidableEq, Repr

/-- The state that reset gives a block with straps `p` (10_state.md R38, 70_ R391): idle, empty, default
configuration, `FAULTS = 0`, and nothing known of `OUT`, `RES` and `RUN`. The other arguments are the
model's own fields, which reset passes on. -/
def State.resetOf (p : Straps) (port : List Input) (responses : List Packet)
    (outEpoch memEpoch : Nat) : State where
  ctrlXor := false
  sref := []
  estate := .idle
  j := 0
  prev := []
  res := []
  run := []
  runcnt := []
  dsum := []
  outValues := []
  outQuality := []
  outn := 0
  faults := 0
  straps := p
  port := port
  responses := responses
  outEpoch := outEpoch
  memEpoch := memEpoch

/-- The machine right after reset, before any command (10_state.md R38), with the strap values of
Sys2Proof/Config.lean (log 2) and `QRLE_FILL = ABS`, the default (R8). -/
def State.reset : State :=
  State.resetOf
    { C := Config.resetC, N := Config.resetN, R := Config.resetR, s8tab := s8tabDefault, fill := .abs }
    [] [] 0 0

end Sys2Proof.Machine
end

