-- ==== Sys2Proof/Machine/Flags.lean ====
section
/-! DEFINITION. The fault kinds and the `FAULTS` register. The block has no condition codes (10_state.md
R26); its only flag register is the sticky fault log (R25). -/

namespace Sys2Proof.Machine

/-- The fault kinds (60_exceptions.md R350). -/
inductive FaultKind where
  /-- Host side; the block never raises it (R357). -/
  | idMismatch
  | truncatedInput
  /-- Host side; the block never raises it (R357). -/
  | deflateFailure
  | overflow
  | stateViolation
  | illegalCommand
  | badOperand
  | rangeFault
  deriving DecidableEq, Repr

/-- The code of a fault (R350). -/
def FaultKind.code : FaultKind → BitVec 8
  | .idMismatch => 0x01#8
  | .truncatedInput => 0x02#8
  | .deflateFailure => 0x03#8
  | .overflow => 0x04#8
  | .stateViolation => 0x05#8
  | .illegalCommand => 0x10#8
  | .badOperand => 0x11#8
  | .rangeFault => 0x12#8

/-- The bit of `FAULTS` whose index is the fault's code (10_state.md R25). -/
def FaultKind.bit (f : FaultKind) : BitVec 32 := 1#32 <<< f.code.toNat

/-- `FAULTS[c] <- 1`; the other bits keep their value (60_exceptions.md R363). -/
def stickyFaults (faults : BitVec 32) (f : FaultKind) : BitVec 32 := faults ||| f.bit

/-- A fault that a command ends with: `raise F(info)` (00_scope.md R15). -/
structure Raised where
  kind : FaultKind
  info : Word
  deriving DecidableEq, Repr

end Sys2Proof.Machine
end

