-- ==== Sys2Proof/Machine/Operands.lean ====
section
/-! DEFINITION. Operand forms and arithmetic: the wrapping primitives and mode operators (00_scope.md
R13, R14), the byte-stream primitives (R17), and values as response words (R93, R96). -/

namespace Sys2Proof.Machine

/-! ## 32-bit arithmetic (R13, R14) -/

/-- `add32` (R13). -/
def add32 (a b : Word) : Word := a + b

/-- `sub32` (R13). -/
def sub32 (a b : Word) : Word := a - b

/-- `xor32` (R13). -/
def xor32 (a b : Word) : Word := a ^^^ b

/-- `shl32` (R13). -/
def shl32 (x : Word) (k : Nat) : Word := x <<< k

/-- `asr32`: an arithmetic shift right (R13). -/
def asr32 (x : Word) (k : Nat) : Word := x.sshiftRight k

/-- `lsr32`: a logical shift right (R13). -/
def lsr32 (u : Word) (k : Nat) : Word := u >>> k

/-- `ominus` under `CTRL.XOR` (R14). -/
def ominus (xor : Bool) (a b : Word) : Word := if xor then xor32 a b else sub32 a b

/-- `oplus` under `CTRL.XOR` (R14; 90_conflicts.md C1: the inverse operator, `add32` in arithmetic
mode). -/
def oplus (xor : Bool) (a b : Word) : Word := if xor then xor32 a b else add32 a b

/-! ## Byte streams (R17) -/

/-- `to_be64`: byte `k` is `w[63-8k : 56-8k]`. -/
def toBe64 (w : U64) : List Byte :=
  [w.extractLsb' 56 8, w.extractLsb' 48 8, w.extractLsb' 40 8, w.extractLsb' 32 8,
   w.extractLsb' 24 8, w.extractLsb' 16 8, w.extractLsb' 8 8, w.extractLsb' 0 8]

/-- The `u64` of eight bytes, the first most significant. -/
def be64 (b0 b1 b2 b3 b4 b5 b6 b7 : Byte) : U64 := b0 ++ b1 ++ b2 ++ b3 ++ b4 ++ b5 ++ b6 ++ b7

/-! ## Numbers as words -/

/-- A count or position as a packet word (R95, R96, R358). -/
def natWord (n : Nat) : Word := BitVec.ofNat 32 n

/-- A 24-bit operand as a 32-bit pattern, zero-extended (R93, R358). -/
def argWord (a : BitVec 24) : Word := a.setWidth 32

/-- Element `i` of a list of sample words; a list that the decoder made has every element the rules read
(log 21). -/
def elem (xs : List Word) (i : Nat) : Word := xs.getD i 0

end Sys2Proof.Machine
end

