-- ==== Sys2Proof/Machine/Ops.lean ====
section
/-! DEFINITION. The named operations over the state: the indexed arrays, the limits of the straps, answering
a command, taking a fault, and reset. There is no return from a fault (60_exceptions.md R366). -/

namespace Sys2Proof.Machine

/-! ## Indexed arrays (20_memory.md R60; log 17) -/

/-- The order of array entries: by row, then by column. -/
def Index.lt (a b : Index) : Bool := a.1 < b.1 || (a.1 == b.1 && a.2 < b.2)

/-- The entry at `k`, if it is listed. -/
def Table.find {α : Type} : Table α → Index → Option α
  | [], _ => none
  | (k', v) :: t, k => if k' = k then some v else Table.find t k

/-- The entry at `k`, or `d` where it is not listed. -/
def Table.get {α : Type} (t : Table α) (k : Index) (d : α) : α := (t.find k).getD d

/-- List `v` at `k`, indices rising. -/
def Table.put {α : Type} : Table α → Index → α → Table α
  | [], k, v => [(k, v)]
  | (k', v') :: t, k, v =>
    if k' = k then (k, v) :: t
    else if k.lt k' then (k, v) :: (k', v') :: t
    else (k', v') :: Table.put t k v

/-- List nothing at `k`. -/
def Table.erase {α : Type} : Table α → Index → Table α
  | [], _ => []
  | (k', v') :: t, k => if k' = k then Table.erase t k else (k', v') :: Table.erase t k

/-- Write `v` at `k` in an array whose entries read as `d` where they are not listed: writing `d` lists
nothing. -/
def Table.putOr {α : Type} [DecidableEq α] (d : α) (t : Table α) (k : Index) (v : α) : Table α :=
  if v = d then t.erase k else t.put k v

/-- Every index of `t` comes after `k`. -/
def Table.above {α : Type} (k : Index) (t : Table α) : Bool := t.all fun e => k.lt e.1

/-- The indices are strictly rising. -/
def Table.wf {α : Type} : Table α → Bool
  | [] => true
  | (k, _) :: t => Table.above k t && Table.wf t

/-- The indices are strictly rising and no listed entry is `d`, what an unlisted entry reads as. -/
def Table.wfOr {α : Type} [DecidableEq α] (d : α) (t : Table α) : Bool :=
  t.wf && t.all fun e => decide (e.2 ≠ d)

/-- What `SREF[i]` reads as where it is not listed: -1, its reset value (10_state.md R34). -/
def noRef : Word := 0xFFFFFFFF#32

/-- The canonical form of every array of the state (log 17). -/
def Memory.wf (s : State) : Bool :=
  s.sref.wfOr noRef && s.prev.wfOr 0 && s.res.wf && s.run.wf && s.runcnt.wfOr 0 && s.dsum.wfOr 0 &&
    s.outValues.wf && s.outQuality.wf

/-! ## Reading the arrays -/

/-- `SREF[i]` (R34). -/
def State.srefAt (s : State) (i : Nat) : Word := s.sref.get (0, i) noRef

/-- `PREV[k][i]` (R27). -/
def State.prevAt (s : State) (k i : Nat) : Word := s.prev.get (k, i) 0

/-- `RES[i][j]` (R28). -/
def State.resAt (s : State) (i j : Nat) : Word := s.res.get (i, j) (Config.freeRes s.memEpoch i j)

/-- `RUN[i][r]` (R29). -/
def State.runAt (s : State) (i r : Nat) : Run :=
  s.run.get (i, r) ⟨(Config.freeRun s.memEpoch i r).1, (Config.freeRun s.memEpoch i r).2⟩

/-- `RUNCNT[i]` (R29). -/
def State.runcntAt (s : State) (i : Nat) : Nat := s.runcnt.get (0, i) 0

/-- `DSUM[k][i]` (R30). -/
def State.dsumAt (s : State) (k i : Nat) : Word := s.dsum.get (k, i) 0

/-- `OUT[j].values[i]` (R31). -/
def State.outValueAt (s : State) (j i : Nat) : Word :=
  s.outValues.get (j, i) (Config.freeOutValue s.outEpoch j i)

/-- `OUT[j].quality[i]` (R31). -/
def State.outQualityAt (s : State) (j i : Nat) : Word :=
  s.outQuality.get (j, i) (Config.freeOutQuality s.outEpoch j i)

/-! ## Writing the state -/

/-- `CTRL.XOR <- b`. -/
def State.setXor (b : Bool) (s : State) : State := { s with ctrlXor := b }

/-- `SREF[i] <- r`. -/
def State.setSref (i : Nat) (r : Word) (s : State) : State :=
  { s with sref := s.sref.putOr noRef (0, i) r }

/-- `ESTATE <- e`. -/
def State.setEstate (e : EState) (s : State) : State := { s with estate := e }

/-- `J <- n`. -/
def State.setJ (n : Nat) (s : State) : State := { s with j := n }

/-- `PREV[k][i] <- v`. -/
def State.setPrev (k i : Nat) (v : Word) (s : State) : State :=
  { s with prev := s.prev.putOr 0 (k, i) v }

/-- `RES[i][j] <- v`. -/
def State.setRes (i j : Nat) (v : Word) (s : State) : State := { s with res := s.res.put (i, j) v }

/-- `RUN[i][r] <- x`. -/
def State.setRun (i r : Nat) (x : Run) (s : State) : State := { s with run := s.run.put (i, r) x }

/-- `RUNCNT[i] <- n`. -/
def State.setRuncnt (i n : Nat) (s : State) : State :=
  { s with runcnt := s.runcnt.putOr 0 (0, i) n }

/-- `DSUM[k][i] <- v`. -/
def State.setDsum (k i : Nat) (v : Word) (s : State) : State :=
  { s with dsum := s.dsum.putOr 0 (k, i) v }

/-- `OUT[j].values[i] <- v`. -/
def State.setOutValue (j i : Nat) (v : Word) (s : State) : State :=
  { s with outValues := s.outValues.put (j, i) v }

/-- `OUT[j].quality[i] <- q`. -/
def State.setOutQuality (j i : Nat) (q : Word) (s : State) : State :=
  { s with outQuality := s.outQuality.put (j, i) q }

/-- `OUTN <- n`. -/
def State.setOutn (n : Nat) (s : State) : State := { s with outn := n }

/-- `PREV[k][i] <- 0` for all `k`, `i` (45_message_encode.md R262, R267). -/
def State.clearPrev (s : State) : State := { s with prev := [] }

/-- `RUNCNT[i] <- 0` for all `i` (R262, R267). -/
def State.clearRuncnt (s : State) : State := { s with runcnt := [] }

/-- `DSUM[k][i] <- 0` for all `k`, `i` (46_message_decode.md R291). -/
def State.clearDsum (s : State) : State := { s with dsum := [] }

/-- Every entry of `OUT` takes an arbitrary new value (10_state.md R31, 60_exceptions.md R364). -/
def State.forgetOut (s : State) : State :=
  { s with outValues := [], outQuality := [], outEpoch := s.outEpoch + 1 }

/-! ## The straps -/

/-- The limits of `C`, `N`, `R` (00_scope.md R8, R9). -/
def countsLegal (p : Straps) : Bool :=
  decide (1 ≤ p.C) && decide (p.C ≤ 65535) && decide (1 ≤ p.N) && decide (p.N ≤ 2 ^ 24 - 1) &&
    decide (18 * p.C * p.N ≤ 2 ^ 24 - 1) && decide (p.R ≠ 0)

/-- Counts strictly decreasing and widths non-decreasing from each row to the next (42_simple8b.md
R161). -/
def rowsOrdered : List (Nat × Nat) → Bool
  | [] => true
  | [_] => true
  | a :: b :: t => decide (b.1 < a.1) && decide (a.2 ≤ b.2) && rowsOrdered (b :: t)

/-- The constraints any selector table must meet (42_simple8b.md R161). -/
def s8tabLegal (t : List (Nat × Nat)) : Bool :=
  t.length == 16 && t.all (fun r => decide (1 ≤ r.1) && decide (r.1 * r.2 ≤ 60)) && rowsOrdered t &&
    decide (t.getLast? = some (1, 60))

/-- The straps a block can have; a model refuses others (70_reset_and_hazards.md R403 (4)). -/
def strapsLegal (p : Straps) : Bool := countsLegal p && s8tabLegal p.s8tab

/-- `S8MODE`: the values section uses Simple8b (00_scope.md R8). -/
def s8mode (p : Straps) : Bool := 16 < p.N

/-- `DEFLATE`: the host wraps the payload in deflate (00_scope.md R8, 47_host_contract.md R322). -/
def deflateMode (p : Straps) : Bool := 4096 < p.N

/-! ## Answering a command -/

/-- The status word of code `c` (30_encoding.md R95). -/
def statusWord (c : BitVec 8) : Word := c ++ 0#24

/-- The response packet of a status code and payload words (30_encoding.md R95). -/
def responsePacket (c : BitVec 8) (payload : List Word) : Packet :=
  statusWord c :: natWord payload.length :: payload

/-- The command ends `OK` with these payload words (R95, R96). -/
def respond (payload : List Word) (s : State) : State :=
  { s with responses := s.responses ++ [responsePacket 0x00#8 payload] }

/-- TAKING A FAULT: the command ends with fault `f`: its response is the status word with the code, one
payload word, the info word (60_exceptions.md R358), and `FAULTS` gets its bit (R363); nothing else
changes (R362). -/
def raiseFault (f : FaultKind) (info : Word) (s : State) : State :=
  { s with
    faults := stickyFaults s.faults f
    responses := s.responses ++ [responsePacket f.code [info]] }

/-- What a data-faulted `DPAY` leaves besides (60_exceptions.md R364): `OUTN = 0`, `DSUM = 0`, `OUT`
unspecified. -/
def decodeAborted (s : State) : State := ((s.setOutn 0).clearDsum).forgetOut

/-! ## Reset -/

/-- Reset is asserted and released (70_reset_and_hazards.md R390): every state element takes its reset value;
the parameters of the instance, what the host has presented and what has left the block stay as they are
(log 1, log 13). -/
def takeReset (s : State) : State :=
  State.resetOf s.straps s.port s.responses (s.outEpoch + 1) (s.memEpoch + 1)

/-- A reset that samples the straps `p` (R390): they are those of the instance, "fixed for the life of the
instance", or the model refuses them: its reading of 93_implementation_defined.md U15 and R403 (4) (DEDUCED, log 12). -/
def resetWith (p : Pins) (s : State) : Host.Outcome State Fault Refusal :=
  if p = s.straps.toPins then .next (takeReset s) else .refused .strapsChanged

end Sys2Proof.Machine
end

