-- ==== Sys2Proof/Machine/ControlConfig.lean ====
section
/-! DEFINITION. The configuration and register-read commands `SETXOR`, `SETSREF`, `RDCSR`
(40_control_config.md) and the CSR map (10_state.md R35). -/

namespace Sys2Proof.Machine

/-! ## The CSR map (R35) -/

/-- `MODE`: bit 0 `S8MODE`, bit 1 `DEFLATE`, bit 2 `QFILL`; the other bits 0. -/
def modeWord (p : Straps) : Word :=
  0#29 ++ BitVec.ofBool (decide (p.fill = .cnt)) ++ BitVec.ofBool (deflateMode p) ++
    BitVec.ofBool (s8mode p)

/-- The numeric encoding of `ESTATE` (R23). -/
def estateCode : EState → BitVec 2
  | .idle => 0#2
  | .accum => 1#2
  | .final => 2#2

/-- A count in the low 24 bits of a register whose other bits are 0. -/
def count24 (n : Nat) : Word := (BitVec.ofNat 24 n).setWidth 32

/-- The value of the register at `addr`, or `none` where no register is mapped (R35). -/
def csrRead (addr : BitVec 24) (s : State) : Option Word :=
  if addr = 0x000000#24 then some (natWord s.straps.C)
  else if addr = 0x000001#24 then some (natWord s.straps.N)
  else if addr = 0x000002#24 then some (natWord Config.D)
  else if addr = 0x000003#24 then some s.straps.R
  else if addr = 0x000004#24 then some (modeWord s.straps)
  else if addr = 0x000005#24 then some ((BitVec.ofBool s.ctrlXor).setWidth 32)
  else if addr = 0x000006#24 then some ((estateCode s.estate).setWidth 32)
  else if addr = 0x000007#24 then some (count24 s.j)
  else if addr = 0x000008#24 then some (count24 s.outn)
  else if addr = 0x000009#24 then some s.faults
  else if 0x010000 ≤ addr.toNat ∧ addr.toNat < 0x010000 + s.straps.C then
    some (s.srefAt (addr.toNat - 0x010000))
  else none

/-! ## The commands -/

/-- `SETXOR` (R121). -/
def execSetxor (b : Bool) (s : State) : Host.Outcome State Fault Refusal :=
  if s.estate ≠ .idle then .next (raiseFault .stateViolation (natWord s.j) s)
  else .next (respond [] (s.setXor b))

/-- Some channel other than `i` refers to channel `i` (R122). -/
def referredTo (s : State) (i : Nat) : Bool :=
  (List.range s.straps.C).any fun k => k != i && s.srefAt k == BitVec.ofNat 32 i

/-- The checks of `SETSREF` on its operands, in the order of R122: the offending operand, if any. -/
def srefOffence (i : BitVec 24) (r : Word) (s : State) : Option Word :=
  if s.straps.C ≤ i.toNat then some (argWord i)
  else if r.toInt < -1 ∨ (s.straps.C : Int) ≤ r.toInt then some r
  else if r.toInt = i.toNat then some r
  else if 0 ≤ r.toInt ∧ s.srefAt r.toNat ≠ noRef then some r
  else if 0 ≤ r.toInt ∧ referredTo s i.toNat then some r
  else none

/-- `SETSREF` (R122). -/
def execSetsref (i : BitVec 24) (r : Word) (s : State) : Host.Outcome State Fault Refusal :=
  if s.estate ≠ .idle then .next (raiseFault .stateViolation (natWord s.j) s)
  else
    match srefOffence i r s with
    | some info => .next (raiseFault .badOperand info s)
    | none => .next (respond [] (s.setSref i.toNat r))

/-- `RDCSR` (R123). -/
def execRdcsr (addr : BitVec 24) (s : State) : Host.Outcome State Fault Refusal :=
  match csrRead addr s with
  | some v => .next (respond [v] s)
  | none => .next (raiseFault .badOperand (argWord addr) s)

end Sys2Proof.Machine
end

