-- ==== Sys2Proof/Machine/Predictor.lean ====
section
/-! DEFINITION. Unit DPRED: the delta predictor and its reconstructor (43_predictor.md), procedures of
`ESAMP` and `DPAY`. -/

namespace Sys2Proof.Machine

/-! ## Encode side (R200 to R207) -/

/-- `SREF[i] >= 0`: channel `i` has a spatial reference (R201). -/
def hasRef (s : State) (i : Nat) : Bool := decide (0 ≤ (s.srefAt i).toInt)

/-- `sp(values, i)` (R201): arithmetic in both modes. -/
def spatial (values : List Word) (s : State) (i : Nat) : Word :=
  if hasRef s i then sub32 (elem values i) (elem values (s.srefAt i).toNat) else elem values i

/-- `d[k]` of channel `i` for the value `v` (R203), from the `PREV` of `s`. -/
def delta (s : State) (i : Nat) (v : Word) : Nat → Word
  | 0 => ominus s.ctrlXor v (s.prevAt 0 i)
  | k + 1 => ominus s.ctrlXor (delta s i v k) (s.prevAt (k + 1) i)

/-- The residual of channel `i` at sample `j` for the value `v` (R202, R203). -/
def residual (s : State) (j i : Nat) (v : Word) : Word :=
  if j = 0 then v else delta s i v (min (j - 1) (Config.D - 1))

/-- `PREV[k][i] <- d[k-1]` for `k = 1 .. top`, every `d` taken from the `PREV` of `old` (R203). -/
def saveDeltas (old : State) (i : Nat) (v : Word) : Nat → State → State
  | 0, s => s
  | k + 1, s => (saveDeltas old i v k s).setPrev (k + 1) i (delta old i v k)

/-- The `PREV` writes of channel `i` at sample `j` for the value `v` (R202: layer 0; R203: layer 0 and
the layers up to `min(j, D-1)`). -/
def savePrev (j i : Nat) (v : Word) (s : State) : State :=
  saveDeltas s i v (min j (Config.D - 1)) (s.setPrev 0 i v)

/-- The predictor on these channels at sample `j`, and their residuals, which go into `RES` too (R200,
45_message_encode.md R261). -/
def predict (values : List Word) (j : Nat) : List Nat → State → State × List Word
  | [], s => (s, [])
  | i :: is, s =>
    let v := spatial values s i
    let r := residual s j i v
    let rest := predict values j is ((savePrev j i v s).setRes i j r)
    (rest.1, r :: rest.2)

/-! ## Decode side (R210 to R218) -/

/-- The cascade of R212 from layer `top` down: `DSUM[k-1] <- oplus(DSUM[k-1], DSUM[k])`. -/
def cascade (i : Nat) : Nat → State → State
  | 0, s => s
  | k + 1, s => cascade i k (s.setDsum k i (oplus s.ctrlXor (s.dsumAt k i) (s.dsumAt (k + 1) i)))

/-- `DSUM` of channel `i` takes the residual `r` of sample `j >= 1` (R212, R213). -/
def accumulate (j i : Nat) (r : Word) (s : State) : State :=
  let top := min j (Config.D - 1) - 1
  cascade i top (s.setDsum top i (oplus s.ctrlXor (s.dsumAt top i) r))

/-- Sample `j` of channel `i` is reconstructed from its residual `r` (R211, R212). -/
def reconstruct (j i : Nat) (r : Word) (s : State) : State :=
  if j = 0 then s.setOutValue 0 i r
  else
    let s' := accumulate j i r s
    s'.setOutValue j i (oplus s'.ctrlXor (s'.outValueAt (j - 1) i) (s'.dsumAt 0 i))

/-- The spatial fixup of one value (R214): arithmetic in both modes. -/
def fixupAt (j i : Nat) (s : State) : State :=
  if hasRef s i then
    s.setOutValue j i (add32 (s.outValueAt j i) (s.outValueAt j (s.srefAt i).toNat))
  else s

/-- The places `(j, i)` with `j < n`, `i < c`, in the order `for j … for i …`. -/
def places (n c : Nat) : List (Nat × Nat) :=
  (List.range n).flatMap fun j => (List.range c).map fun i => (j, i)

/-- The spatial fixup over the decoded samples (R214), a pass of its own (R215). -/
def fixup (n : Nat) (s : State) : State :=
  (places n s.straps.C).foldl (fun s' ji => fixupAt ji.1 ji.2 s') s

end Sys2Proof.Machine
end

