-- ==== Sys2Proof/Machine/Varint.lean ====
section
/-! DEFINITION. The zig-zag mapping and the LEB128 coder (41_zigzag_varint.md): pure functions that the
payload formatter and parser call. -/

namespace Sys2Proof.Machine

/-- `zz_enc` (R140). -/
def zzEnc (x : Word) : Word := xor32 (shl32 x 1) (asr32 x 31)

/-- `zz_dec` (R141). -/
def zzDec (u : Word) : Word := xor32 (lsr32 u 1) (if u &&& 1 = 1 then 0xFFFFFFFF#32 else 0)

/-- `uv_put` with at most `more` further bytes before the last one. -/
def uvPutUpTo : Nat → Word → List Byte
  | 0, x => [x.setWidth 8]
  | more + 1, x =>
    if 0x80#32 ≤ x then ((x &&& 0x7F#32) ||| 0x80#32).setWidth 8 :: uvPutUpTo more (lsr32 x 7)
    else [x.setWidth 8]

/-- `uv_put` (R143): the shortest LEB128 form; 32 bits are at most 5 bytes. -/
def uvPut (x : Word) : List Byte := uvPutUpTo 4 x

/-- The loop of `uv_get` (R144) over the bytes from `pos + k` on, `x` the value so far. -/
def uvGetFrom (pos : Nat) : Nat → Word → List Byte → Except Raised (Word × Nat)
  | _, _, [] => .error ⟨.truncatedInput, natWord pos⟩
  | k, x, b :: rest =>
    if k = 4 ∧ b &&& 0xF0#8 ≠ 0 then .error ⟨.overflow, natWord pos⟩
    else
      let x' := x ||| ((b &&& 0x7F#8).setWidth 32 <<< (7 * k))
      if b < 0x80#8 then .ok (x', k + 1) else uvGetFrom pos (k + 1) x' rest

/-- `uv_get(B, pos)` (R144): the value and the number of bytes used, or the fault. -/
def uvGet (B : List Byte) (pos : Nat) : Except Raised (Word × Nat) := uvGetFrom pos 0 0 (B.drop pos)

/-- `sv_put` (R146). -/
def svPut (x : Word) : List Byte := uvPut (zzEnc x)

/-- `sv_get` (R147). -/
def svGet (B : List Byte) (pos : Nat) : Except Raised (Word × Nat) :=
  match uvGet B pos with
  | .ok (u, used) => .ok (zzDec u, used)
  | .error f => .error f

end Sys2Proof.Machine
end

