-- ==== Sys2Proof/Machine/Quality.lean ====
section
/-! DEFINITION. Unit QRLE: the quality run-length compressor and expander (44_quality_rle.md), procedures
of `ESAMP`, of finalising and of `DPAY`. -/

namespace Sys2Proof.Machine

/-! ## Encode side (R230 to R236) -/

/-- Push quality word `q` on channel `i` at sample `j` (R231 for `j = 0`, R232 otherwise). -/
def pushQuality (j i : Nat) (q : Word) (s : State) : State :=
  if j = 0 then (s.setRun i 0 ⟨q, 1⟩).setRuncnt i 1
  else
    let c := s.runcntAt i - 1
    if (s.runAt i c).value = q then s.setRun i c ⟨(s.runAt i c).value, (s.runAt i c).len + 1⟩
    else (s.setRun i (c + 1) ⟨q, 1⟩).setRuncnt i (s.runcntAt i + 1)

/-- Push a sample's quality words on these channels (45_message_encode.md R261). -/
def pushAll (q : List Word) (j : Nat) : List Nat → State → State
  | [], s => s
  | i :: is, s => pushAll q j is (pushQuality j i (elem q i) s)

/-- The last run's length of channel `i` becomes the sentinel 0 (R234). -/
def flushRun (i : Nat) (s : State) : State :=
  let r := s.runcntAt i - 1
  s.setRun i r ⟨(s.runAt i r).value, 0⟩

/-- Flush the run vectors of these channels (R234). -/
def flushRuns : List Nat → State → State
  | [], s => s
  | i :: is, s => flushRuns is (flushRun i s)

/-- The bytes of one run: value, then length (R235). -/
def runBytes (x : Run) : List Byte := uvPut x.value ++ uvPut x.len

/-- The bytes of channel `i`'s live runs (R235). -/
def channelQuality (s : State) (i : Nat) : List Byte :=
  (List.range (s.runcntAt i)).flatMap fun r => runBytes (s.runAt i r)

/-- The quality section of a payload (R235). -/
def qualitySection (s : State) : List Byte := (List.range s.straps.C).flatMap (channelQuality s)

/-! ## Decode side (R240 to R246) -/

/-- The entries a run of `length` at cursor `cur` fills besides `cur` itself (R241), a sentinel fills to
`N` (R240, R246). -/
def fillIndices (p : Straps) (cur length : Nat) : List Nat :=
  if length = 0 then List.range' (cur + 1) (p.N - (cur + 1))
  else
    match p.fill with
    | .abs => List.range' (cur + 1) (length - (cur + 1))
    | .cnt => List.range' (cur + 1) (min (cur + length) p.N - (cur + 1))

/-- `OUT[j].quality[i] <- q` for every `j` of a list. -/
def fillQuality (i : Nat) (q : Word) : List Nat → State → State
  | [], s => s
  | j :: js, s => fillQuality i q js (s.setOutQuality j i q)

/-- One pair of the wire: value, length and the position after them, or the fault (R240). -/
def readPair (B : List Byte) (pos : Nat) : Except Raised (Word × Word × Nat) :=
  match uvGet B pos with
  | .error f => .error f
  | .ok (value, u1) =>
    match uvGet B (pos + u1) with
    | .error f => .error f
    | .ok (length, u2) => .ok (value, length, pos + u1 + u2)

/-- The expander of channel `i` from cursor `cur` (R240, R242), of at most `fuel` pairs: every pair moves
the cursor, so `n` pairs always do. -/
def expandRuns (B : List Byte) (i n : Nat) : Nat → Nat → State → Nat → Except Raised (State × Nat)
  | 0, _, s, pos => .ok (s, pos)
  | fuel + 1, cur, s, pos =>
    if n ≤ cur then .ok (s, pos)
    else
      match readPair B pos with
      | .error f => .error f
      | .ok (value, length, pos') =>
        if s.straps.N < length.toNat then .error ⟨.rangeFault, length⟩
        else
          let s' := fillQuality i value (fillIndices s.straps cur length.toNat)
            (s.setOutQuality cur i value)
          expandRuns B i n fuel (if length = 0 then n else cur + length.toNat) s' pos'

/-- The expander of these channels in order (46_message_decode.md R295). -/
def expandAll (B : List Byte) (n : Nat) : List Nat → State → Nat → Except Raised (State × Nat)
  | [], s, pos => .ok (s, pos)
  | i :: is, s, pos =>
    match expandRuns B i n n 0 s pos with
    | .error f => .error f
    | .ok (s', pos') => expandAll B n is s' pos'

end Sys2Proof.Machine
end

