-- ==== Sys2Proof/Machine/Simple8b.lean ====
section
/-! DEFINITION. Unit S8B: the Simple8b packer and unpacker and the commands `S8PACK`, `S8UNPK`, `S8UNPKN`
(42_simple8b.md). They read and write no state but `FAULTS` (R172). -/

namespace Sys2Proof.Machine

/-! ## Words (R162 to R164) -/

/-- Row `sel` of the selector table; a legal table has all 16 (R161). -/
def s8Row (tab : List (Nat × Nat)) (sel : Nat) : Nat × Nat := tab.getD sel (1, 60)

/-- `s8b_fits` for a row of width `wd` (R162). -/
def s8Fits (wd : Nat) (vs : List U64) : Bool := vs.all fun v => v.toNat < 2 ^ wd

/-- Slots `k, k+1, …` of width `wd` holding these values, as in the loop of R163. -/
def s8Slots (wd : Nat) : Nat → List U64 → U64
  | _, [] => 0
  | k, v :: vs => (v <<< (wd * k)) ||| s8Slots wd (k + 1) vs

/-- `s8b_pack_word` (R163): selector in the top 4 bits, the first value in the least significant slot
(30_encoding.md R98; slot placement PRESUMED by the spec, log 8). -/
def s8PackWord (tab : List (Nat × Nat)) (sel : Nat) (vs : List U64) : U64 :=
  (BitVec.ofNat 64 sel <<< 60) ||| s8Slots (s8Row tab sel).2 0 vs

/-- `s8b_unpack_word` (R164) of a word whose selector is `sel`: `N_sel` values, unused bits ignored. -/
def s8UnpackRow (tab : List (Nat × Nat)) (sel : Nat) (w : U64) : List U64 :=
  let row := s8Row tab sel
  (List.range row.1).map fun k => (w >>> (row.2 * k)) &&& BitVec.ofNat 64 (2 ^ row.2 - 1)

/-- `s8b_unpack_word` (R164). -/
def s8UnpackWord (tab : List (Nat × Nat)) (w : U64) : List U64 :=
  s8UnpackRow tab (selField w).toNat w

/-! ## Sequences (R165 to R170) -/

/-- The values that remain fill a word of row `sel` and fit it: the candidate test of R165. -/
def s8Candidate (tab : List (Nat × Nat)) (vs : List U64) (sel : Nat) : Bool :=
  let row := s8Row tab sel
  decide (row.1 ≤ vs.length) && s8Fits row.2 (vs.take row.1)

/-- The selector R165 chooses: the smallest that is a candidate. In a legal table the last row always is,
when every value is below 2^60. -/
def s8Choose (tab : List (Nat × Nat)) (vs : List U64) : Nat :=
  ((List.range 16).find? (s8Candidate tab vs)).getD 15

/-- The loop of `s8b_pack` (R166), of at most `fuel` words; `vs.length` words always do (R168). -/
def s8PackUpTo (tab : List (Nat × Nat)) : Nat → List U64 → List U64
  | 0, _ => []
  | fuel + 1, vs =>
    match vs with
    | [] => []
    | _ :: _ =>
      let sel := s8Choose tab vs
      let n := (s8Row tab sel).1
      s8PackWord tab sel (vs.take n) :: s8PackUpTo tab fuel (vs.drop n)

/-- The words of `s8b_pack` for values that passed its check (R166). -/
def s8PackWords (tab : List (Nat × Nat)) (vs : List U64) : List U64 := s8PackUpTo tab vs.length vs

/-- `s8b_pack` (R166): the whole list is checked before any word is made; the info word is the index of
the first offending value. -/
def s8Pack (tab : List (Nat × Nat)) (vs : List U64) : Except Raised (List U64) :=
  match vs.findIdx? (fun v => 2 ^ 60 ≤ v.toNat) with
  | some q => .error ⟨.overflow, natWord q⟩
  | none => .ok (s8PackWords tab vs)

/-- The loop of `s8b_unpack_until` (R169) over the bytes from `pos` on, `n` values still wanted. -/
def s8UntilFrom (tab : List (Nat × Nat)) : List Byte → Nat → Nat → Except Raised (List U64 × Nat)
  | b0 :: b1 :: b2 :: b3 :: b4 :: b5 :: b6 :: b7 :: rest, pos, n =>
    if n = 0 then .ok ([], 0)
    else
      let vs := s8UnpackWord tab (be64 b0 b1 b2 b3 b4 b5 b6 b7)
      match s8UntilFrom tab rest (pos + 8) (n - vs.length) with
      | .ok (more, used) => .ok (vs.take n ++ more, used + 1)
      | .error f => .error f
  | _, pos, n => if n = 0 then .ok ([], 0) else .error ⟨.truncatedInput, natWord pos⟩

/-- `s8b_unpack_until(B, pos, n)` (R169): the first `n` values and the number of words read. -/
def s8UnpackUntil (tab : List (Nat × Nat)) (B : List Byte) (pos n : Nat) :
    Except Raised (List U64 × Nat) :=
  s8UntilFrom tab (B.drop pos) pos n

/-- `s8b_unpack_all` (R170). -/
def s8UnpackAll (tab : List (Nat × Nat)) (ws : List U64) : List U64 := ws.flatMap (s8UnpackWord tab)

/-! ## The commands (R172 to R176) -/

/-- A response of `extra` words and `2 * values` words has a count that fits a `u32`
(30_encoding.md R95). -/
def countFits (extra values : Nat) : Bool := decide (extra + 2 * values ≤ 2 ^ 32 - 1)

/-- `S8PACK` (R174). -/
def execS8pack (vs : List U64) (s : State) : Host.Outcome State Fault Refusal :=
  match s8Pack s.straps.s8tab vs with
  | .ok ws => .next (respond (packU64s ws) s)
  | .error f => .next (raiseFault f.kind f.info s)

/-- The values of `k` words are answered, or refused with `BadOperand(k)` where the count does not fit its
word (30_encoding.md R95, R96). -/
def answerUnpacked (k : Nat) (vs : List U64) (s : State) : Host.Outcome State Fault Refusal :=
  if countFits 0 vs.length then .next (respond (packU64s vs) s)
  else .next (raiseFault .badOperand (natWord k) s)

/-- `S8UNPK` (R175). -/
def execS8unpk (ws : List U64) (s : State) : Host.Outcome State Fault Refusal :=
  answerUnpacked ws.length (s8UnpackAll s.straps.s8tab ws) s

/-- `S8UNPKN` (R176). A response whose count does not fit its word is refused with `BadOperand(n)`
(30_encoding.md R95; DEDUCED, log 10). -/
def execS8unpkn (n : Word) (ws : List U64) (s : State) : Host.Outcome State Fault Refusal :=
  match s8UnpackUntil s.straps.s8tab (ws.flatMap toBe64) 0 n.toNat with
  | .ok (vs, used) =>
    if countFits 1 vs.length then .next (respond (natWord used :: packU64s vs) s)
    else .next (raiseFault .badOperand n s)
  | .error f => .next (raiseFault f.kind f.info s)

end Sys2Proof.Machine
end

