-- ==== Sys2Proof/Machine/MessageDecode.lean ====
section
/-! DEFINITION. The decode commands `DPAY`, `RDOUT` and the payload parser (46_message_decode.md). -/

namespace Sys2Proof.Machine

/-! ## The parser (R292 to R297) -/

/-- Samples `j, j+1, …` of channel `i` from the slots `zs`: a slot of 2^32 or more is a `RangeFault`
(R292). -/
def rebuildChannel (i : Nat) : Nat → List U64 → State → Except Raised State
  | _, [], s => .ok s
  | j, z :: zs, s =>
    if 2 ^ 32 ≤ z.toNat then .error ⟨.rangeFault, z.setWidth 32⟩
    else rebuildChannel i (j + 1) zs (reconstruct j i (zzDec (z.setWidth 32)) s)

/-- The values section in Simple8b mode, of these channels (R292). -/
def parseS8 (B : List Byte) (n : Nat) : List Nat → State → Nat → Except Raised (State × Nat)
  | [], s, pos => .ok (s, pos)
  | i :: is, s, pos =>
    match s8UnpackUntil s.straps.s8tab B pos n with
    | .error f => .error f
    | .ok (zs, used) =>
      match rebuildChannel i 0 zs s with
      | .error f => .error f
      | .ok s' => parseS8 B n is s' (pos + 8 * used)

/-- The values section in varint mode, of these places (R293). -/
def parseVarint (B : List Byte) : List (Nat × Nat) → State → Nat → Except Raised (State × Nat)
  | [], s, pos => .ok (s, pos)
  | ji :: rest, s, pos =>
    match svGet B pos with
    | .error f => .error f
    | .ok (r, used) => parseVarint B rest (reconstruct ji.1 ji.2 r s) (pos + used)

/-- The values section (R292, R293). -/
def parseValues (B : List Byte) (n : Nat) (s : State) : Except Raised (State × Nat) :=
  if s8mode s.straps then parseS8 B n (List.range s.straps.C) s 0
  else parseVarint B (places n s.straps.C) s 0

/-- The payload: values, fixup, quality, in that order (R291, R296); the state and the bytes consumed, or
the first fault. -/
def parsePayload (B : List Byte) (n : Nat) (s : State) : Except Raised (State × Nat) :=
  match parseValues B n s with
  | .error f => .error f
  | .ok (s', pos) => expandAll B n (List.range s.straps.C) (fixup n s') pos

/-! ## The commands -/

/-- The effective decode length `min(es, N)` (R291). -/
def decodeLength (es : Word) (s : State) : Nat := min es.toNat s.straps.N

/-- `DPAY` (R291); a data fault leaves what R364 says. -/
def execDpay (es : Word) (bytes : List Byte) (s : State) : Host.Outcome State Fault Refusal :=
  if es.toInt ≤ 0 then .next (raiseFault .badOperand es s)
  else
    let n := decodeLength es s
    match parsePayload bytes n ((s.setOutn 0).clearDsum) with
    | .error f => .next (raiseFault f.kind f.info (decodeAborted s))
    | .ok (s', pos) => .next (respond [natWord pos, natWord n] ((s'.clearDsum).setOutn n))

/-- `OUT[j]` as response words: the `C` values, then the `C` quality words (30_encoding.md R96). -/
def sampleWords (s : State) (j : Nat) : List Word :=
  (List.range s.straps.C).map (s.outValueAt j) ++ (List.range s.straps.C).map (s.outQualityAt j)

/-- `RDOUT` (R298). -/
def execRdout (j : BitVec 24) (s : State) : Host.Outcome State Fault Refusal :=
  if s.outn ≤ j.toNat then .next (raiseFault .badOperand (argWord j) s)
  else .next (respond (sampleWords s j.toNat) s)

end Sys2Proof.Machine
end

