-- ==== Sys2Proof/Machine/MessageEncode.lean ====
section
/-! DEFINITION. The encode commands `ESAMP`, `EFLUSH`, `ECANCEL` and the payload formatter
(45_message_encode.md). -/

namespace Sys2Proof.Machine

/-! ## The payload (R263 to R265) -/

/-- The zig-zag residuals of channel `i`, samples `0 .. es-1`, as values for the packer (R263). -/
def zigzagResiduals (s : State) (es i : Nat) : List U64 :=
  (List.range es).map fun j => (zzEnc (s.resAt i j)).setWidth 64

/-- The values section in Simple8b mode (R263): channel-major. Every value is below 2^32, so the packer's
check cannot fail (R270). -/
def valuesS8 (s : State) (es : Nat) : List Byte :=
  (List.range s.straps.C).flatMap fun i =>
    (s8PackWords s.straps.s8tab (zigzagResiduals s es i)).flatMap toBe64

/-- The values section in varint mode (R264): sample-major. -/
def valuesVarint (s : State) (es : Nat) : List Byte :=
  (places es s.straps.C).flatMap fun ji => svPut (s.resAt ji.2 ji.1)

/-- The values section; the strap `N` decides the mode, not the count (R262; 90_conflicts.md C11). -/
def valuesSection (s : State) (es : Nat) : List Byte :=
  if s8mode s.straps then valuesS8 s es else valuesVarint s es

/-! ## Ending a message (R262, R267) -/

/-- `PREV`, `RUNCNT`, `J` are cleared and `ESTATE` is `IDLE` (R262, R267); `RES` and the `RUN` entries
stay. -/
def clearMessage (s : State) : State := (((s.clearPrev).clearRuncnt).setJ 0).setEstate .idle

/-- The payload of the message that `s` holds, its run vectors flushed: values section, then quality
section (R265). -/
def payloadOf (s : State) (es : Nat) : List Byte := valuesSection s es ++ qualitySection s

/-- The finalise procedure (R262): the state after it, the sample count and the payload. -/
def finalise (s : State) : State × Nat × List Byte :=
  let es := s.j
  let flushed := flushRuns (List.range s.straps.C) (s.setEstate .final)
  (clearMessage flushed, es, payloadOf flushed es)

/-- A finalised message as response words: `es`, `plen`, the payload bytes packed (30_encoding.md
R96). -/
def messageWords (es : Nat) (payload : List Byte) : List Word :=
  natWord es :: natWord payload.length :: packBytes payload

/-! ## The commands -/

/-- What `ESAMP` does before it looks whether the message is full (R261): the predictor, the quality
push, `J` and `ESTATE`; with the residuals. -/
def takeSample (v q : List Word) (s : State) : State × List Word :=
  let j := s.j
  let predicted := predict v j (List.range s.straps.C) s
  let pushed := pushAll q j (List.range s.straps.C) predicted.1
  ((pushed.setJ (j + 1)).setEstate .accum, predicted.2)

/-- `ESAMP` (R261). -/
def execEsamp (v q : List Word) (s : State) : Host.Outcome State Fault Refusal :=
  let taken := takeSample v q s
  if taken.1.j = s.straps.N then
    let fin := finalise taken.1
    .next (respond (taken.2 ++ 1#32 :: messageWords fin.2.1 fin.2.2) fin.1)
  else .next (respond (taken.2 ++ [0#32]) taken.1)

/-- `EFLUSH` (R266). -/
def execEflush (s : State) : Host.Outcome State Fault Refusal :=
  if s.j = 0 then .next (raiseFault .stateViolation 0 s)
  else
    let fin := finalise s
    .next (respond (messageWords fin.2.1 fin.2.2) fin.1)

/-- `ECANCEL` (R267). -/
def execEcancel (s : State) : Host.Outcome State Fault Refusal := .next (respond [] (clearMessage s))

end Sys2Proof.Machine
end

