-- ==== Sys2Proof/Machine/Simple8bWord.lean ====
section
/-! DEFINITION. The sixteen Simple8b word layouts of spec/opcode_table.json as instructions
(42_simple8b.md R164; log 4). -/

namespace Sys2Proof.Machine

/-- A word of row `sel` with these data bits is unpacked, and its `N_sel` values (R164) are answered as
`S8UNPK` of that one word answers them (R175). DESIGN CHOICE (log 4): the spec describes no bare word at the
port, so that it is answered, and how, is the model's. That includes a row with 2^31 or more slots of width 0,
which R161 allows: its answer needs a count above 2^32 - 1 (30_encoding.md R95, silent on bare words), and it
is refused with `BadOperand(1)`, as `S8UNPK` of the word is. -/
def unpackLayout (sel : BitVec 4) (data : BitVec 60) (s : State) : Host.Outcome State Fault Refusal :=
  answerUnpacked 1 (s8UnpackRow s.straps.s8tab sel.toNat (s8Word sel data)) s

/-- The row `S8W_SEL0` (R164). -/
def execS8wSel0 (data : BitVec 60) (s : State) : Host.Outcome State Fault Refusal :=
  unpackLayout 0#4 data s

/-- The row `S8W_SEL1` (R164). -/
def execS8wSel1 (data : BitVec 60) (s : State) : Host.Outcome State Fault Refusal :=
  unpackLayout 1#4 data s

/-- The row `S8W_SEL2` (R164). -/
def execS8wSel2 (data : BitVec 60) (s : State) : Host.Outcome State Fault Refusal :=
  unpackLayout 2#4 data s

/-- The row `S8W_SEL3` (R164). -/
def execS8wSel3 (data : BitVec 60) (s : State) : Host.Outcome State Fault Refusal :=
  unpackLayout 3#4 data s

/-- The row `S8W_SEL4` (R164). -/
def execS8wSel4 (data : BitVec 60) (s : State) : Host.Outcome State Fault Refusal :=
  unpackLayout 4#4 data s

/-- The row `S8W_SEL5` (R164). -/
def execS8wSel5 (data : BitVec 60) (s : State) : Host.Outcome State Fault Refusal :=
  unpackLayout 5#4 data s

/-- The row `S8W_SEL6` (R164). -/
def execS8wSel6 (data : BitVec 60) (s : State) : Host.Outcome State Fault Refusal :=
  unpackLayout 6#4 data s

/-- The row `S8W_SEL7` (R164). -/
def execS8wSel7 (data : BitVec 60) (s : State) : Host.Outcome State Fault Refusal :=
  unpackLayout 7#4 data s

/-- The row `S8W_SEL8` (R164). -/
def execS8wSel8 (data : BitVec 60) (s : State) : Host.Outcome State Fault Refusal :=
  unpackLayout 8#4 data s

/-- The row `S8W_SEL9` (R164). -/
def execS8wSel9 (data : BitVec 60) (s : State) : Host.Outcome State Fault Refusal :=
  unpackLayout 9#4 data s

/-- The row `S8W_SEL10` (R164). -/
def execS8wSel10 (data : BitVec 60) (s : State) : Host.Outcome State Fault Refusal :=
  unpackLayout 10#4 data s

/-- The row `S8W_SEL11` (R164). -/
def execS8wSel11 (data : BitVec 60) (s : State) : Host.Outcome State Fault Refusal :=
  unpackLayout 11#4 data s

/-- The row `S8W_SEL12` (R164). -/
def execS8wSel12 (data : BitVec 60) (s : State) : Host.Outcome State Fault Refusal :=
  unpackLayout 12#4 data s

/-- The row `S8W_SEL13` (R164). -/
def execS8wSel13 (data : BitVec 60) (s : State) : Host.Outcome State Fault Refusal :=
  unpackLayout 13#4 data s

/-- The row `S8W_SEL14` (R164). -/
def execS8wSel14 (data : BitVec 60) (s : State) : Host.Outcome State Fault Refusal :=
  unpackLayout 14#4 data s

/-- The row `S8W_SEL15` (R164). -/
def execS8wSel15 (data : BitVec 60) (s : State) : Host.Outcome State Fault Refusal :=
  unpackLayout 15#4 data s

end Sys2Proof.Machine
end

