-- ==== Sys2Proof/Machine/Dispatch.lean ====
section
/-! DEFINITION. One arm per constructor of Instr, one direct call each. -/

namespace Sys2Proof.Machine

def exec (i : Instr) (s : State) : Host.Outcome State Fault Refusal :=
  match i with
  | .setxor b => Sys2Proof.Machine.execSetxor b s
  | .setsref i' r => Sys2Proof.Machine.execSetsref i' r s
  | .rdcsr addr => Sys2Proof.Machine.execRdcsr addr s
  | .s8pack vs => Sys2Proof.Machine.execS8pack vs s
  | .s8unpk ws => Sys2Proof.Machine.execS8unpk ws s
  | .s8unpkn n ws => Sys2Proof.Machine.execS8unpkn n ws s
  | .esamp v q => Sys2Proof.Machine.execEsamp v q s
  | .eflush => Sys2Proof.Machine.execEflush s
  | .ecancel => Sys2Proof.Machine.execEcancel s
  | .dpay es bytes => Sys2Proof.Machine.execDpay es bytes s
  | .rdout j => Sys2Proof.Machine.execRdout j s
  | .s8wSel0 data => Sys2Proof.Machine.execS8wSel0 data s
  | .s8wSel1 data => Sys2Proof.Machine.execS8wSel1 data s
  | .s8wSel2 data => Sys2Proof.Machine.execS8wSel2 data s
  | .s8wSel3 data => Sys2Proof.Machine.execS8wSel3 data s
  | .s8wSel4 data => Sys2Proof.Machine.execS8wSel4 data s
  | .s8wSel5 data => Sys2Proof.Machine.execS8wSel5 data s
  | .s8wSel6 data => Sys2Proof.Machine.execS8wSel6 data s
  | .s8wSel7 data => Sys2Proof.Machine.execS8wSel7 data s
  | .s8wSel8 data => Sys2Proof.Machine.execS8wSel8 data s
  | .s8wSel9 data => Sys2Proof.Machine.execS8wSel9 data s
  | .s8wSel10 data => Sys2Proof.Machine.execS8wSel10 data s
  | .s8wSel11 data => Sys2Proof.Machine.execS8wSel11 data s
  | .s8wSel12 data => Sys2Proof.Machine.execS8wSel12 data s
  | .s8wSel13 data => Sys2Proof.Machine.execS8wSel13 data s
  | .s8wSel14 data => Sys2Proof.Machine.execS8wSel14 data s
  | .s8wSel15 data => Sys2Proof.Machine.execS8wSel15 data s

end Sys2Proof.Machine
end

