-- ==== Sys2Proof/Machine/Intake.lean ====
section
/-! DEFINITION. What the block does with one item of input. -/

namespace Sys2Proof.Machine

/-- What the block does with one item of input. A packet that is no command ends with `IllegalCommand` and
does nothing else (30_encoding.md R104). A command that reset cuts short is abandoned with no response, and
nothing it did before that survives the reset (70_reset_and_hazards.md R390, R391). -/
def takeInput (x : Input) (s : State) : Host.Outcome State Fault Refusal :=
  match x with
  | .command e =>
    match decode s.straps.C e with
    | .ok i => exec i s
    | .error f => .next (raiseFault .illegalCommand f.info s)
  | .reset p => resetWith p s
  | .cutShort _ p => resetWith p s

end Sys2Proof.Machine
end

