-- ==== Sys2Proof/Machine/Step.lean ====
section
/-! DEFINITION. One step: one item of input is taken from the port and run to completion (20_memory.md
R71, R75). -/

namespace Sys2Proof.Machine

/-- One step. Straps outside the limits are refused (70_ R403 (4)); a block with nothing presented waits
(70_ R392; log 3). -/
def step (s : State) : Host.Outcome State Fault Refusal :=
  if strapsLegal s.straps then
    match s.port with
    | [] => .next s
    | x :: rest => takeInput x { s with port := rest }
  else .refused .illegalStraps

/-- `s` with the instruction of a row's bits presented next on the port (log 15). -/
def State.withFetchWord (s : State) (nbits w : Nat) : State :=
  { s with port := .command (tableEncoded s.straps.C nbits w) :: s.port }

end Sys2Proof.Machine
end

