-- ==== Sys2Proof/Machine/HostSide.lean ====
section
/-! DEFINITION. What the host does around the block: the pseudo-instructions (30_encoding.md R109) and the
message header, deflate gate and timestamps (47_host_contract.md). No step calls anything here: the
block's scope leaves it to the host (00_scope.md R5; log 20). -/

namespace Sys2Proof.Machine

/-! ## Sequences of commands -/

/-- Commands one after another, each to completion (20_memory.md R71). -/
def execAll : List Instr → State → Host.Outcome State Fault Refusal
  | [], s => .next s
  | i :: is, s =>
    match exec i s with
    | .next t => execAll is t
    | .fault f => .fault f
    | .refused r => .refused r

/-! ## Pseudo-instructions (R109) -/

/-- `CONFIGURE xor=b, sref=[r0, …]`: `SETXOR`, then every entry cleared, then the entries with a
reference, in ascending order. -/
def configure (b : Bool) (refs : List Word) : List Instr :=
  .setxor b ::
    ((List.range refs.length).map fun i => .setsref (BitVec.ofNat 24 i) noRef) ++
    ((List.range refs.length).filter fun i => decide (0 ≤ (elem refs i).toInt)).map
      fun i => .setsref (BitVec.ofNat 24 i) (elem refs i)

/-- `ENCODE_MESSAGE s0, …` on a block with `N` samples per message. -/
def encodeMessage (N : Nat) (samples : List (List Word × List Word)) : List Instr :=
  samples.map (fun x => .esamp x.1 x.2) ++ if samples.length < N then [.eflush] else []

/-- The length `n` that a response of `DPAY` reports, if it is `OK` (R95, R96). -/
def decodedLength : Packet → Option Nat
  | [status, _, _, n] => if status = 0 then some n.toNat else none
  | _ => none

/-- What `DECODE_MESSAGE` issues once `DPAY` has answered `reply`: `RDOUT 0`, …, `RDOUT n-1` if it returned
`OK` with length `n`, and nothing if it faulted. -/
def readBack (reply : Packet) : List Instr :=
  match decodedLength reply with
  | some n => (List.range n).map fun j => .rdout (BitVec.ofNat 24 j)
  | none => []

/-- `DECODE_MESSAGE es, bytes`, the whole expansion when `DPAY` answers `reply`. -/
def decodeMessage (es : Word) (bytes : List Byte) (reply : Packet) : List Instr :=
  .dpay es bytes :: readBack reply

/-- The host issues `DECODE_MESSAGE es, bytes` to the block: `DPAY`, then what its response calls for. -/
def issueDecodeMessage (es : Word) (bytes : List Byte) (s : State) : Host.Outcome State Fault Refusal :=
  match exec (.dpay es bytes) s with
  | .next t => execAll (readBack (t.responses.getLastD [])) t
  | .fault f => .fault f
  | .refused r => .refused r

/-! ## The message (R320 to R323, R328, R329) -/

/-- The message header: id, first timestamp big-endian, `encoded_samples` (R320). -/
def messageHeader (streamId : List Byte) (firstT : U64) (es : Word) : List Byte :=
  streamId ++ toBe64 firstT ++ svPut es

/-- `wrap`: deflate when `N > 4096`, the identity otherwise (R322, R328). -/
def wrapPayload (deflate : List Byte → List Byte) (p : Straps) (payload : List Byte) : List Byte :=
  if deflateMode p then deflate payload else payload

/-- A whole message (R320, R328). -/
def buildMessage (deflate : List Byte → List Byte) (p : Straps) (streamId : List Byte) (firstT : U64)
    (es : Word) (payload : List Byte) : List Byte :=
  messageHeader streamId firstT es ++ wrapPayload deflate p payload

/-- The big-endian `u64` of the first eight bytes of a list (00_scope.md R17), 0 where they do not
exist. -/
def readBe64 : List Byte → U64
  | b0 :: b1 :: b2 :: b3 :: b4 :: b5 :: b6 :: b7 :: _ => be64 b0 b1 b2 b3 b4 b5 b6 b7
  | _ => 0

/-- What the host makes of a message before it issues `DPAY`: first timestamp, `encoded_samples` and
payload, or the host-side fault, in the order of R329. -/
def openMessage (inflate : List Byte → Option (List Byte)) (p : Straps) (streamId m : List Byte) :
    Except FaultKind (U64 × Word × List Byte) :=
  if m.length < 25 then .error .stateViolation
  else if m.take 16 ≠ streamId then .error .idMismatch
  else
    match svGet m 24 with
    | .error f => .error f.kind
    | .ok (es, used) =>
      let rest := m.drop (24 + used)
      if deflateMode p then
        match inflate rest with
        | some payload => .ok (readBe64 (m.drop 16), es, payload)
        | none => .error .deflateFailure
      else .ok (readBe64 (m.drop 16), es, rest)

/-! ## Timestamps (R324) -/

/-- The two readings of the source's open question, neither of which the spec chooses. -/
inductive TimeRule where
  /-- The source's behaviour: `t_0 = first_t`, `t_j = j` for `j >= 1`. -/
  | index
  /-- The corrected behaviour: `t_j = first_t + j`. -/
  | offset
  deriving DecidableEq, Repr

/-- The timestamp of decoded sample `j` (R324). DESIGN CHOICE (log 24): where `first_t + j` passes
2^64 - 1, on which the spec is silent, the corrected reading wraps modulo 2^64, as a `u64` sum does. -/
def sampleTime (rule : TimeRule) (firstT : U64) (j : Nat) : U64 :=
  match rule with
  | .index => if j = 0 then firstT else BitVec.ofNat 64 j
  | .offset => firstT + BitVec.ofNat 64 j

end Sys2Proof.Machine
end

