-- ==== Sys2Proof/Safety.lean ====
section
/-! DEFINITION. What counts as a safe run, in the terms the statements use: the invariants between
commands (10_state.md R37), the two sides of the block (00_scope.md R6), and samples fed in order. -/

namespace Sys2Proof.Machine

/-! ## The invariants between commands (R37) -/

/-- R37 (1) and (2): `J < N`, and `ESTATE` is `IDLE` exactly when `J = 0`, else `ACCUM`. -/
def Sequenced (s : State) : Prop :=
  s.j < s.straps.N ∧ s.estate = if s.j = 0 then .idle else .accum

/-- The lengths of the live runs of channel `i`. -/
def runLengths (s : State) (i : Nat) : List Nat :=
  (List.range (s.runcntAt i)).map fun r => (s.runAt i r).len.toNat

/-- R37 (3) for channel `i` of a message under way: `1 <= RUNCNT <= J`, live lengths positive and with sum
`J`, adjacent live runs of different value. -/
def RunsAccumulate (s : State) (i : Nat) : Prop :=
  1 ≤ s.runcntAt i ∧ s.runcntAt i ≤ s.j ∧
  (∀ r, r < s.runcntAt i → 1 ≤ (s.runAt i r).len.toNat) ∧
  (runLengths s i).sum = s.j ∧
  ∀ r, r + 1 < s.runcntAt i → (s.runAt i r).value ≠ (s.runAt i (r + 1)).value

/-- R37 (3). -/
def RunVectors (s : State) : Prop :=
  if s.j = 0 then ∀ i, s.runcntAt i = 0 else ∀ i, i < s.straps.C → RunsAccumulate s i

/-- R37 (4) and (5): `DSUM` is zero and `OUTN <= N`. -/
def DecodeIdle (s : State) : Prop := (∀ k i, s.dsumAt k i = 0) ∧ s.outn ≤ s.straps.N

/-- R37 (6), 10_state.md R34, 40_control_config.md R124: every entry is -1 or names another channel, which
itself refers to none. -/
def SpatialLegal (s : State) : Prop :=
  ∀ i, s.srefAt i = noRef ∨
    (i < s.straps.C ∧ 0 ≤ (s.srefAt i).toInt ∧ (s.srefAt i).toNat < s.straps.C ∧
      (s.srefAt i).toNat ≠ i ∧ s.srefAt (s.srefAt i).toNat = noRef)

/-- 10_state.md R25: only the bits 2, 4, 5, 16, 17, 18 of `FAULTS` can be set. -/
def FaultBitsKnown (s : State) : Prop := s.faults &&& ~~~0x00070034#32 = 0

/-- The invariant of the block between commands: R37, the legal bits of `FAULTS`, legal straps, and the
canonical form of the arrays. (R37 (7) holds because `CTRL` is held as its one field.) -/
structure Inv (s : State) : Prop where
  straps : strapsLegal s.straps = true
  sequenced : Sequenced s
  runs : RunVectors s
  decode : DecodeIdle s
  spatial : SpatialLegal s
  faults : FaultBitsKnown s
  memory : Memory.wf s = true

/-! ## The two sides of the block (00_scope.md R6) -/

/-- `t` has the configuration of `s`. -/
def SameConfig (s t : State) : Prop := t.ctrlXor = s.ctrlXor ∧ t.sref = s.sref

/-- `t` has the encode-side state of `s` (45_message_encode.md R260). -/
def SameEncodeSide (s t : State) : Prop :=
  t.estate = s.estate ∧ t.j = s.j ∧ t.prev = s.prev ∧ t.res = s.res ∧ t.run = s.run ∧
    t.runcnt = s.runcnt ∧ t.memEpoch = s.memEpoch

/-- `t` has the decode-side state of `s` (46_message_decode.md R290). -/
def SameDecodeSide (s t : State) : Prop :=
  t.dsum = s.dsum ∧ t.outValues = s.outValues ∧ t.outQuality = s.outQuality ∧ t.outn = s.outn ∧
    t.outEpoch = s.outEpoch

/-- `t` has the straps of `s` and what waits at the port. -/
def SameOutside (s t : State) : Prop := t.straps = s.straps ∧ t.port = s.port

/-! ## Samples in order -/

/-- A sample tuple: the `C` values and the `C` quality words (00_scope.md R19). -/
abbrev Sample := List Word × List Word

/-- A tuple for a block of `c` channels. -/
def Sample.fits (c : Nat) (x : Sample) : Prop := x.1.length = c ∧ x.2.length = c

/-- `s` after these samples have been fed, before it is looked whether the message is full
(45_message_encode.md R261). -/
def feed : List Sample → State → State
  | [], s => s
  | x :: xs, s => feed xs (takeSample x.1 x.2 s).1

/-- The `ESAMP` of a sample tuple. -/
def Sample.esamp (x : Sample) : Instr := .esamp x.1 x.2

/-! ## Responses as the spec lays them out (30_encoding.md R95, 60_exceptions.md R358, R363) -/

/-- `s` with the response of an `OK` command and nothing else. -/
def answersOk (words : List Word) (s : State) : State :=
  { s with responses := s.responses ++ [0#32 :: BitVec.ofNat 32 words.length :: words] }

/-- `s` with the response of a faulted command, its `FAULTS` bit set, and nothing else. -/
def answersFault (code : Nat) (info : Word) (s : State) : State :=
  { s with
    faults := s.faults ||| BitVec.ofNat 32 (2 ^ code)
    responses := s.responses ++ [[BitVec.ofNat 32 (code * 2 ^ 24), 1#32, info]] }

/-- The codes of the faults the block raises (60_exceptions.md R350, R357). -/
def blockCodes : List Nat := [0x02, 0x04, 0x05, 0x10, 0x11, 0x12]

/-! ## Packets as the spec lays them out (30_encoding.md R92, R94, R104) -/

/-- None of the four cases of R104 holds of the packet, for a block of `c` channels. -/
def LegalPacket (c : Nat) (p : Packet) : Prop :=
  ∃ w0 ws, p = w0 :: ws ∧
    let op := w0.toNat / 2 ^ 24
    let a := w0.toNat % 2 ^ 24
    (op = 0x01 ∧ a < 2 ∧ p.length = 1) ∨ (op = 0x02 ∧ p.length = 2) ∨ (op = 0x03 ∧ p.length = 1) ∨
    (op = 0x10 ∧ p.length = 1 + 2 * a) ∨ (op = 0x11 ∧ p.length = 1 + 2 * a) ∨
    (op = 0x12 ∧ p.length = 2 + 2 * a) ∨ (op = 0x20 ∧ a = 0 ∧ p.length = 1 + 2 * c) ∨
    (op = 0x21 ∧ a = 0 ∧ p.length = 1) ∨ (op = 0x22 ∧ a = 0 ∧ p.length = 1) ∨
    (op = 0x30 ∧ p.length = 2 + (a + 3) / 4) ∨ (op = 0x31 ∧ p.length = 1)

/-! ## Residuals as the spec's closed forms give them (43_predictor.md R201, R204) -/

/-- `sp(values, i)` under the spatial table `ref` (R201). -/
def spatialOf (ref : Nat → Word) (v : List Word) (i : Nat) : Word :=
  if 0 ≤ (ref i).toInt then elem v i - elem v (ref i).toNat else elem v i

/-- `x_j` of channel `i` for the samples `xs` (R204). -/
def reduced (ref : Nat → Word) (xs : List Sample) (i j : Nat) : Word :=
  spatialOf ref (xs.getD j ([], [])).1 i

/-- The table of R204, for the sequence `x` of one channel. -/
def closedResidual (xor : Bool) (x : Nat → Word) : Nat → Word
  | 0 => x 0
  | 1 => if xor then x 1 ^^^ x 0 else x 1 - x 0
  | 2 => if xor then x 2 ^^^ x 0 else x 2 - 2 * x 1 + x 0
  | j + 3 =>
    if xor then x (j + 3) ^^^ x (j + 2) ^^^ x (j + 1) ^^^ x j
    else x (j + 3) - 3 * x (j + 2) + 3 * x (j + 1) - x j

/-! ## Runs of a list (44_quality_rle.md R230 to R235) -/

/-- The runs `(value, length)` of a list of quality words. -/
def runsOf : List Word → List (Word × Nat)
  | [] => []
  | q :: qs =>
    match runsOf qs with
    | [] => [(q, 1)]
    | (v, n) :: rest => if v = q then (v, n + 1) :: rest else (q, 1) :: (v, n) :: rest

/-- The runs as they go on the wire: the last length is the sentinel 0 (R234). -/
def wireRuns : List (Word × Nat) → List (Word × Word)
  | [] => []
  | [(v, _)] => [(v, 0)]
  | (v, n) :: x :: rest => (v, BitVec.ofNat 32 n) :: wireRuns (x :: rest)

/-- The bytes of wire runs: value, then length (R235). -/
def wireBytes (runs : List (Word × Word)) : List Byte :=
  runs.flatMap fun x => uvPut x.1 ++ uvPut x.2

/-- Where run `r` starts (44_quality_rle.md R244). -/
def runStart (runs : List (Word × Nat)) (r : Nat) : Nat := ((runs.take r).map Prod.snd).sum

/-! ## Payloads as the spec lays them out (30_encoding.md R102; 45_message_encode.md R263 to R265) -/

/-- The values section of `es` samples whose residuals are `res i j`. -/
def valuesBytes (p : Straps) (es : Nat) (res : Nat → Nat → Word) : List Byte :=
  if 16 < p.N then
    (List.range p.C).flatMap fun i =>
      (s8PackWords p.s8tab ((List.range es).map fun j => (zzEnc (res i j)).setWidth 64)).flatMap toBe64
  else (List.range es).flatMap fun j => (List.range p.C).flatMap fun i => uvPut (zzEnc (res i j))

/-- The quality section of channels whose wire runs are `runs i`. -/
def qualityBytes (p : Straps) (runs : Nat → List (Word × Word)) : List Byte :=
  (List.range p.C).flatMap fun i => wireBytes (runs i)

/-- The payload of the message that `u` holds, as finalising it writes it. -/
def payloadFrom (u : State) (es : Nat) : List Byte :=
  valuesBytes u.straps es u.resAt ++
    qualityBytes u.straps fun i => (List.range (u.runcntAt i)).map fun r =>
      ((u.runAt i r).value, if r + 1 = u.runcntAt i then 0 else (u.runAt i r).len)

/-- The values section of a message of these samples, from the samples alone. -/
def messageValues (p : Straps) (xor : Bool) (ref : Nat → Word) (xs : List Sample) : List Byte :=
  valuesBytes p xs.length fun i j => closedResidual xor (reduced ref xs i) j

/-- The quality words of channel `i`. -/
def qualityWords (xs : List Sample) (i : Nat) : List Word := xs.map fun x => elem x.2 i

/-- The quality section of a message of these samples, from the samples alone. -/
def messageQuality (p : Straps) (xs : List Sample) : List Byte :=
  qualityBytes p fun i => wireRuns (runsOf (qualityWords xs i))

/-- The payload of a message of these samples, from the samples, the straps and the configuration
alone. -/
def messagePayload (p : Straps) (xor : Bool) (ref : Nat → Word) (xs : List Sample) : List Byte :=
  messageValues p xor ref xs ++ messageQuality p xs

/-- A payload of a message as response words: `es`, `plen`, the bytes (30_encoding.md R96). -/
def payloadWords (es : Nat) (payload : List Byte) : List Word :=
  BitVec.ofNat 32 es :: BitVec.ofNat 32 payload.length :: packBytes payload

/-! ## One sample (45_message_encode.md R261) -/

/-- `d[0]` of channel `i` for the value `x` (43_predictor.md R203). -/
def firstDelta (s : State) (i : Nat) (x : Word) : Word := ominus s.ctrlXor x (s.prevAt 0 i)

/-- `d[1]` of channel `i` for the value `x` (R203). -/
def secondDelta (s : State) (i : Nat) (x : Word) : Word :=
  ominus s.ctrlXor (firstDelta s i x) (s.prevAt 1 i)

/-- `r[i]` for the value `x` at sample `J`, written out for `D = 3` (R202, R203). -/
def nextResidual (s : State) (i : Nat) (x : Word) : Word :=
  match s.j with
  | 0 => x
  | 1 => firstDelta s i x
  | 2 => secondDelta s i x
  | _ => ominus s.ctrlXor (secondDelta s i x) (s.prevAt 2 i)

/-- The residuals of a sample. -/
def nextResiduals (s : State) (v : List Word) : List Word :=
  (List.range s.straps.C).map fun i => nextResidual s i (spatialOf s.srefAt v i)

/-- The run vector of channel `i` after a push of `q` (44_quality_rle.md R231, R232). -/
def Pushed (q : Word) (i : Nat) (s u : State) : Prop :=
  if s.j = 0 then
    u.runcntAt i = 1 ∧ ∀ r, u.runAt i r = if r = 0 then ⟨q, 1⟩ else s.runAt i r
  else if (s.runAt i (s.runcntAt i - 1)).value = q then
    u.runcntAt i = s.runcntAt i ∧
      ∀ r, u.runAt i r =
        if r = s.runcntAt i - 1 then ⟨q, (s.runAt i r).len + 1⟩ else s.runAt i r
  else
    u.runcntAt i = s.runcntAt i + 1 ∧
      ∀ r, u.runAt i r = if r = s.runcntAt i - 1 + 1 then ⟨q, 1⟩ else s.runAt i r

/-- `u` is `s` after the sample `(v, q)`, before it is looked whether the message is full (R261). -/
structure AfterSample (v q : List Word) (s u : State) : Prop where
  frame : u = { s with
    j := s.j + 1, estate := .accum, prev := u.prev, res := u.res, run := u.run, runcnt := u.runcnt }
  layers : ∀ k i, u.prevAt k i =
    if i < s.straps.C ∧ k = 0 then spatialOf s.srefAt v i
    else if i < s.straps.C ∧ k = 1 ∧ 1 ≤ s.j then firstDelta s i (spatialOf s.srefAt v i)
    else if i < s.straps.C ∧ k = 2 ∧ 2 ≤ s.j then secondDelta s i (spatialOf s.srefAt v i)
    else s.prevAt k i
  residuals : ∀ i j, u.resAt i j =
    if i < s.straps.C ∧ j = s.j then nextResidual s i (spatialOf s.srefAt v i) else s.resAt i j
  pushed : ∀ i, i < s.straps.C → Pushed (elem q i) i s u
  others : ∀ i, s.straps.C ≤ i → u.runcntAt i = s.runcntAt i ∧ ∀ r, u.runAt i r = s.runAt i r

/-- `t` is `u` after its message is finalised (R262): scratch cleared, last live lengths 0. -/
structure Finalised (u t : State) : Prop where
  frame : t = { u with j := 0, estate := .idle, prev := t.prev, run := t.run, runcnt := t.runcnt }
  layers : ∀ k i, t.prevAt k i = 0
  counts : ∀ i, t.runcntAt i = 0
  runs : ∀ i r, t.runAt i r =
    if i < u.straps.C ∧ r = u.runcntAt i - 1 then ⟨(u.runAt i r).value, 0⟩ else u.runAt i r

/-! ## Reconstruction in any legal order (43_predictor.md R210) -/

/-- The residual of sample `j`, channel `i` that encoding these samples gives. -/
def residualAt (xor : Bool) (ref : Nat → Word) (xs : List Sample) (j i : Nat) : Word :=
  closedResidual xor (reduced ref xs i) j

/-- Reconstruction at these places `(j, i)`, in this order, from the residuals `r j i`. -/
def rebuild (r : Nat → Nat → Word) : List (Nat × Nat) → State → State
  | [], s => s
  | p :: ps, s => rebuild r ps (reconstruct p.1 p.2 (r p.1 p.2) s)

/-- An order R210 allows: every channel's samples `0 .. n-1`, ascending. -/
def LegalOrder (n c : Nat) (ps : List (Nat × Nat)) : Prop :=
  (∀ p ∈ ps, p.2 < c) ∧
    ∀ i, i < c → ((ps.filter fun p => p.2 == i).map Prod.fst) = List.range n

/-! ## Where the parser stands in a payload, from the readers alone (46_message_decode.md R292 to R295) -/

/-- The byte list ends inside the LEB128 field at `pos` (41_zigzag_varint.md R144). -/
def FieldCut (B : List Byte) (pos : Nat) : Prop :=
  ∃ k, k ≤ 4 ∧ B.length ≤ pos + k ∧ ∀ m, m < k → 0x80 ≤ (B.getD (pos + m) 0).toNat

/-- The LEB128 field at `pos` does not end within 5 bytes or has value bits above bit 31 (R144). -/
def FieldOverlong (B : List Byte) (pos : Nat) : Prop :=
  pos + 4 < B.length ∧ (∀ m, m < 4 → 0x80 ≤ (B.getD (pos + m) 0).toNat) ∧
    0x10 ≤ (B.getD (pos + 4) 0).toNat

/-- The position after `k` LEB128 fields from `pos` on, if all can be read. -/
def fieldsEnd (B : List Byte) : Nat → Nat → Option Nat
  | 0, pos => some pos
  | k + 1, pos =>
    match uvGet B pos with
    | .ok (_, used) => fieldsEnd B k (pos + used)
    | .error _ => none

/-- The position after the Simple8b words of the first `k` channels, `n` values each, if all words are there
and all their values are below 2^32 (R292). -/
def channelsEnd (tab : List (Nat × Nat)) (B : List Byte) (n : Nat) : Nat → Option Nat
  | 0 => some 0
  | k + 1 =>
    match channelsEnd tab B n k with
    | none => none
    | some pos =>
      match s8UnpackUntil tab B pos n with
      | .ok (zs, used) => if zs.all fun z => decide (z.toNat < 2 ^ 32) then some (pos + 8 * used) else none
      | .error _ => none

/-- The position after the values section of `n` samples, if all of it can be read (R292, R293). -/
def valuesEnd (p : Straps) (B : List Byte) (n : Nat) : Option Nat :=
  if 16 < p.N then channelsEnd p.s8tab B n p.C else fieldsEnd B (n * p.C) 0

/-- Channel, cursor and position at which the `k`-th further pair of the quality section is read, if the pairs
before it can be read and their lengths are not above `N` (44_quality_rle.md R240, R242). -/
def pairAt (N n : Nat) (B : List Byte) : Nat → Nat × Nat × Nat → Option (Nat × Nat × Nat)
  | 0, place => some place
  | k + 1, (i, cur, pos) =>
    match readPair B pos with
    | .error _ => none
    | .ok (_, l, pos') =>
      if N < l.toNat then none
      else if l = 0 ∨ n ≤ cur + l.toNat then pairAt N n B k (i + 1, 0, pos')
      else pairAt N n B k (i, cur + l.toNat, pos')

/-- `DPAY es, bytes` ends with this data fault and info word, and leaves what R364 says. -/
def DpayAborts (es : Word) (bytes : List Byte) (s : State) (code : Nat) (info : Word) : Prop :=
  ∃ t, exec (.dpay es bytes) s = .next t ∧ t.outn = 0 ∧ (∀ k i, t.dsumAt k i = 0) ∧
    t.faults = s.faults ||| BitVec.ofNat 32 (2 ^ code) ∧
    t.responses = s.responses ++ [[BitVec.ofNat 32 (code * 2 ^ 24), 1#32, info]] ∧
    SameConfig s t ∧ SameEncodeSide s t ∧ SameOutside s t

/-! ## Spatial tables (40_control_config.md R122) -/

/-- The table `refs` is one the block can hold: every entry is -1, or another channel that refers to
none. -/
def LegalTable (refs : List Word) : Prop :=
  ∀ i, i < refs.length → elem refs i = noRef ∨
    (0 ≤ (elem refs i).toInt ∧ (elem refs i).toNat < refs.length ∧ (elem refs i).toNat ≠ i ∧
      elem refs (elem refs i).toNat = noRef)

/-! ## Kinds of instructions (00_scope.md R6) -/

/-- The encode commands `ESAMP`, `EFLUSH`, `ECANCEL`. -/
def isEncode : Instr → Bool
  | .esamp _ _ | .eflush | .ecancel => true
  | _ => false

/-- The decode command that writes, `DPAY`. -/
def isDecode : Instr → Bool
  | .dpay _ _ => true
  | _ => false

/-- The configuration commands `SETXOR`, `SETSREF`. -/
def isConfig : Instr → Bool
  | .setxor _ | .setsref _ _ => true
  | _ => false

end Sys2Proof.Machine
end

