-- ==== Sys2Proof/Certificates/Slice0/Obligations.lean ====
section
/-! DEFINITION. The statements for the provers, one per entry of OBLIGATIONS.json. A response is written out
as the spec lays it out (`answersOk`, `answersFault`); an equation `exec i s = .next …` says also that
everything it does not name is unchanged. -/

open Sys2Proof Sys2Proof.Machine

/-! ## Encodings -/

/-- 30_encoding.md R91 to R94, R97: decoding the encoding of any well-formed instruction gives it back. -/
def Obligations.DecodeInvertsEncode : Prop :=
  ∀ (c : Nat) (i : Instr), i.wf c = true → decode c (encode i) = .ok i

/-- 30_encoding.md R92 to R94, 20_memory.md R65: what decodes is well-formed, and encodes to what was decoded,
but for the pad bytes of `DPAY`, which are ignored. -/
def Obligations.EncodeInvertsDecode : Prop :=
  ∀ (c : Nat) (e : Encoded) (i : Instr), decode c e = .ok i →
    i.wf c = true ∧
    ((∀ es bytes, i ≠ .dpay es bytes) → encode i = e) ∧
    ∀ es bytes, i = .dpay es bytes → ∃ w0 ws ws',
      e = .packet (w0 :: es :: ws) ∧ encode i = .packet (w0 :: es :: ws') ∧
        ws'.length = ws.length ∧ unpackBytes bytes.length ws = bytes

/-- 30_encoding.md R104: an illegal packet ends with `IllegalCommand`, info word `w0` (0 for an empty packet),
and does nothing else; any other packet is executed. -/
def Obligations.IllegalPacketsRefused : Prop :=
  ∀ (s : State) (p : Packet) (rest : List Input), strapsLegal s.straps = true →
    s.port = .command (.packet p) :: rest →
    (¬LegalPacket s.straps.C p →
      step s = .next (answersFault 0x10 (p.headD 0) { s with port := rest })) ∧
    (LegalPacket s.straps.C p → ∃ i, decode s.straps.C (.packet p) = .ok i ∧
      i.wf s.straps.C = true ∧ step s = exec i { s with port := rest })

/-- 30_encoding.md R92, R97: packets and words written out from the spec's encodings decode to the instructions
they stand for. -/
def Obligations.WrittenOutPacketsDecode : Prop :=
  decode 2 (.packet [0x01000001#32]) = .ok (.setxor true) ∧
  decode 2 (.packet [0x02000001#32, 0#32]) = .ok (.setsref 1#24 0#32) ∧
  decode 2 (.packet [0x03010007#32]) = .ok (.rdcsr 0x010007#24) ∧
  decode 2 (.packet [0x10000001#32, 0#32, 0x11170#32]) = .ok (.s8pack [70000#64]) ∧
  decode 2 (.packet [0x11000001#32, 0xE0000000#32, 0x80000001#32]) =
    .ok (.s8unpk [0xE000000080000001#64]) ∧
  decode 2 (.packet [0x12000001#32, 2#32, 0xD0000300#32, 0x00200001#32]) =
    .ok (.s8unpkn 2#32 [0xD000030000200001#64]) ∧
  decode 2 (.packet [0x20000000#32, 0x3E8#32, 0xFFFFFFCE#32, 7#32, 9#32]) =
    .ok (.esamp [1000#32, 0xFFFFFFCE#32] [7#32, 9#32]) ∧
  decode 2 (.packet [0x21000000#32]) = .ok .eflush ∧
  decode 2 (.packet [0x22000000#32]) = .ok .ecancel ∧
  decode 2 (.packet [0x30000005#32, 4#32, 0xD00F6314#32, 0x03FFFFFF#32]) =
    .ok (.dpay 4#32 [0xD0#8, 0x0F#8, 0x63#8, 0x14#8, 0x03#8]) ∧
  decode 2 (.packet [0x31000002#32]) = .ok (.rdout 2#24) ∧
  decode 2 (.s8word 0x9FFFFFFFFFFFFFFF#64) = .ok (.s8wSel9 0xFFFFFFFFFFFFFFF#60)

/-! ## The step -/

/-- 20_memory.md R71, R75: a step takes the first item of the port, decodes it and runs it; and the item that
`withFetchWord` presents is the next one taken. That the item may be a bare Simple8b word is the model's choice
(log 4: the spec describes only packets at the port); so is `withFetchWord`, which stands for the host's
presenting an item (log 3, log 15). -/
def Obligations.StepRunsDecodedInstruction : Prop :=
  (∀ (s : State) (e : Encoded) (rest : List Input) (i : Instr), strapsLegal s.straps = true →
    s.port = .command e :: rest → decode s.straps.C e = .ok i →
    step s = exec i { s with port := rest }) ∧
  ∀ (s : State) (nbits w : Nat) (i : Instr), strapsLegal s.straps = true →
    decode s.straps.C (tableEncoded s.straps.C nbits w) = .ok i →
    step (s.withFetchWord nbits w) = exec i s

/-- 70_reset_and_hazards.md R390 to R392, 10_state.md R38: an empty port is waited at; reset gives every state
element its reset value, whatever the state; and a reset in the middle of a command does the same, with no
response to that command. Two clauses are the model's own. That a reset which samples other straps than the
instance's is refused, as an outcome of the step, and otherwise leaves the parameters, is the model's reading of
93_implementation_defined.md U15 (log 12, DEDUCED; log 1). That reset is an item of input, and that the rest of the
port and the responses are kept, is the model's choice (log 13, DESIGN CHOICE). -/
def Obligations.ResetGivesResetValues : Prop :=
  (∀ s : State, strapsLegal s.straps = true → s.port = [] → step s = .next s) ∧
  ∀ (s : State) (p : Pins) (rest : List Input), strapsLegal s.straps = true →
    (s.port = .reset p :: rest ∨ ∃ e, s.port = .cutShort e p :: rest) →
    (p ≠ s.straps.toPins → step s = .refused .strapsChanged) ∧
    (p = s.straps.toPins →
      ∃ t, step s = .next t ∧ t.straps = s.straps ∧ t.port = rest ∧ t.responses = s.responses ∧
        t.estate = .idle ∧ t.j = 0 ∧ t.ctrlXor = false ∧ t.outn = 0 ∧ t.faults = 0 ∧
        (∀ i, t.srefAt i = 0xFFFFFFFF#32) ∧ (∀ k i, t.prevAt k i = 0) ∧ (∀ i, t.runcntAt i = 0) ∧
        ∀ k i, t.dsumAt k i = 0)

/-- 70_reset_and_hazards.md R392: `EFLUSH` and every `RDOUT` fault on a freshly reset block; `SETXOR`, a sample
of an unfinished message and `ECANCEL` do not. -/
def Obligations.FirstCommandsAfterReset : Prop :=
  ∀ s : State, strapsLegal s.straps = true →
    exec .eflush (takeReset s) = .next (answersFault 0x05 0 (takeReset s)) ∧
    (∀ j, exec (.rdout j) (takeReset s) =
      .next (answersFault 0x11 (BitVec.ofNat 32 j.toNat) (takeReset s))) ∧
    (∀ b, exec (.setxor b) (takeReset s) =
      .next (answersOk [] { takeReset s with ctrlXor := b })) ∧
    exec .ecancel (takeReset s) = .next (answersOk [] (takeReset s)) ∧
    (1 < s.straps.N → ∀ v q, ∃ t, exec (.esamp v q) (takeReset s) = .next t ∧
      t.j = 1 ∧ t.estate = .accum ∧ t.responses = s.responses ++
        [0#32 :: BitVec.ofNat 32 (s.straps.C + 1) ::
          ((List.range s.straps.C).map fun i => elem v i) ++ [0#32]])

/-! ## Whole-machine rules -/

/-- 10_state.md R37: the invariant holds right after reset. -/
def Obligations.InvariantAtReset : Prop :=
  Inv State.reset ∧
  ∀ s : State, strapsLegal s.straps = true → Inv (takeReset s)

/-- 10_state.md R37 (with R25 and the canonical form of the arrays, log 17): every step keeps the invariant. -/
def Obligations.InvariantKept : Prop :=
  ∀ s t : State, Inv s → step s = .next t → Inv t

/-- 00_scope.md R18, 30_encoding.md R95: every presented command that no reset cuts short is taken, and answered
with exactly one response, either `OK` with the count of its payload words or one fault of the block with one
info word. For a packet this is the rule; that a bare Simple8b word is answered at all is the model's choice
(log 4). -/
def Obligations.EveryCommandAnswersOnce : Prop :=
  ∀ (s : State) (e : Encoded) (rest : List Input), strapsLegal s.straps = true →
    s.port = .command e :: rest →
    ∃ t r, step s = .next t ∧ t.port = rest ∧ t.straps = s.straps ∧
      t.responses = s.responses ++ [r] ∧
      ((∃ ws, r = 0#32 :: BitVec.ofNat 32 ws.length :: ws ∧ t.faults = s.faults) ∨
        ∃ code ∈ blockCodes, ∃ info,
          r = [BitVec.ofNat 32 (code * 2 ^ 24), 1#32, info] ∧
            t.faults = s.faults ||| BitVec.ofNat 32 (2 ^ code))

/-- 60_exceptions.md R362 (with R364): a command that ends with a fault changes nothing but `FAULTS` and its
response, unless it is a `DPAY` with a data fault, which also zeroes `OUTN` and `DSUM` and disturbs `OUT`. -/
def Obligations.FaultsChangeNothingElse : Prop :=
  ∀ (s t : State) (e : Encoded) (rest : List Input) (code : Nat) (info : Word),
    strapsLegal s.straps = true → s.port = .command e :: rest → code ∈ blockCodes →
    step s = .next t →
    t.responses = s.responses ++ [[BitVec.ofNat 32 (code * 2 ^ 24), 1#32, info]] →
    t = answersFault code info { s with port := rest } ∨
      ((∃ es bytes, decode s.straps.C e = .ok (.dpay es bytes)) ∧
        (code = 0x02 ∨ code = 0x04 ∨ code = 0x12) ∧
        t.outn = 0 ∧ (∀ k i, t.dsumAt k i = 0) ∧
        t.faults = s.faults ||| BitVec.ofNat 32 (2 ^ code) ∧ t.straps = s.straps ∧ t.port = rest ∧
        SameConfig s t ∧ SameEncodeSide s t)

/-- 60_exceptions.md R363: a fault of code `c` sets bit `c` of `FAULTS` and keeps the others; a command that ends
`OK` keeps them all; and no command behaves differently for what `FAULTS` holds (but for the `RDCSR` that reads
it). -/
def Obligations.FaultsIsOnlyALog : Prop :=
  ∀ (i : Instr) (s t : State), i ≠ .rdcsr 9#24 → exec i s = .next t →
    ∃ bits : BitVec 32,
      ((bits = 0 ∧ ∃ ws, t.responses = s.responses ++ [0#32 :: ws]) ∨
        ∃ code ∈ blockCodes, ∃ info, bits = BitVec.ofNat 32 (2 ^ code) ∧
          t.responses = s.responses ++ [[BitVec.ofNat 32 (code * 2 ^ 24), 1#32, info]]) ∧
      t.faults = s.faults ||| bits ∧
      ∀ f : BitVec 32, exec i { s with faults := f } = .next { t with faults := f ||| bits }

/-- 00_scope.md R6 to R8, 45_message_encode.md R260, 46_message_decode.md R290, 10_state.md R33, R34: no command
touches both sides; the configuration is written only while idle and only by its two commands; the port by none;
and the parameters of the instance by no step at all, reset included. -/
def Obligations.SidesStaySeparate : Prop :=
  (∀ (i : Instr) (s t : State), exec i s = .next t →
    SameOutside s t ∧
    (isEncode i = false → SameEncodeSide s t) ∧
    (isDecode i = false → SameDecodeSide s t) ∧
    (isConfig i = false ∨ s.estate ≠ .idle → SameConfig s t)) ∧
  ∀ s t : State, step s = .next t → t.straps = s.straps

/-- 45_message_encode.md R260, 46_message_decode.md R290: what an encode command answers and leaves on its side
does not depend on the decode side, and what `DPAY` and `RDOUT` answer and leave does not depend on the encode
side. -/
def Obligations.SidesIgnoreEachOther : Prop :=
  ∀ (i : Instr) (s s' t : State), s'.straps = s.straps → SameConfig s s' → exec i s = .next t →
    (isEncode i = true → SameEncodeSide s s' →
      ∃ t' r, exec i s' = .next t' ∧ SameEncodeSide t t' ∧ t.responses = s.responses ++ [r] ∧
        t'.responses = s'.responses ++ [r]) ∧
    ((isDecode i = true ∨ ∃ j, i = .rdout j) → SameDecodeSide s s' →
      ∃ t' r, exec i s' = .next t' ∧ SameDecodeSide t t' ∧ t.responses = s.responses ++ [r] ∧
        t'.responses = s'.responses ++ [r])

/-- 10_state.md R36, 47_host_contract.md R330, 43_predictor.md R206: what a sequence of encode commands answers
from an idle block is a function of the samples, the straps and the configuration only: leftovers in `PREV`,
`RES`, `RUN` and `RUNCNT` do not matter. -/
def Obligations.PayloadsHaveNoHiddenInput : Prop :=
  ∀ (is : List Instr) (s s' t : State), (∀ i ∈ is, isEncode i = true) →
    s'.straps = s.straps → SameConfig s s' →
    s.j = 0 → s'.j = 0 → execAll is s = .next t →
    ∃ t' new, execAll is s' = .next t' ∧ t.responses = s.responses ++ new ∧
      t'.responses = s'.responses ++ new

/-! ## Configuration (40_control_config.md) -/

/-- R121: `SETXOR` writes `CTRL.XOR` on an idle block, and faults in the middle of a message. -/
def Obligations.SetxorEffect : Prop :=
  ∀ (b : Bool) (s : State),
    (s.estate = .idle → exec (.setxor b) s = .next (answersOk [] { s with ctrlXor := b })) ∧
    (s.estate ≠ .idle →
      exec (.setxor b) s = .next (answersFault 0x05 (BitVec.ofNat 32 s.j) s))

/-- R122: `SETSREF` makes its five checks in order, and writes `SREF[i]` and nothing else when all pass. -/
def Obligations.SetsrefEffect : Prop :=
  ∀ (i : BitVec 24) (r : Word) (s : State),
    let refused (info : Word) := exec (.setsref i r) s = .next (answersFault 0x11 info s)
    if s.estate ≠ .idle then
      exec (.setsref i r) s = .next (answersFault 0x05 (BitVec.ofNat 32 s.j) s)
    else if s.straps.C ≤ i.toNat then refused (BitVec.ofNat 32 i.toNat)
    else if r.toInt < -1 ∨ (s.straps.C : Int) ≤ r.toInt then refused r
    else if r.toInt = (i.toNat : Int) then refused r
    else if 0 ≤ r.toInt ∧ s.srefAt r.toNat ≠ 0xFFFFFFFF#32 then refused r
    else if 0 ≤ r.toInt ∧
        ∃ k, k < s.straps.C ∧ k ≠ i.toNat ∧ (s.srefAt k).toInt = (i.toNat : Int) then refused r
    else ∃ table : Table Word,
      let t : State := { s with sref := table }
      exec (.setsref i r) s = .next (answersOk [] t) ∧ t.srefAt i.toNat = r ∧
        ∀ k, k ≠ i.toNat → t.srefAt k = s.srefAt k

/-- R123, 10_state.md R35: the register map that `RDCSR` reads; any other address faults. -/
def Obligations.RdcsrMap : Prop :=
  ∀ (a : BitVec 24) (s : State), s.j < 2 ^ 24 → s.outn < 2 ^ 24 →
    let reads (v : Word) := exec (.rdcsr a) s = .next (answersOk [v] s)
    (a.toNat = 0 → reads (BitVec.ofNat 32 s.straps.C)) ∧
    (a.toNat = 1 → reads (BitVec.ofNat 32 s.straps.N)) ∧
    (a.toNat = 2 → reads 3#32) ∧
    (a.toNat = 3 → reads s.straps.R) ∧
    (a.toNat = 4 → reads (BitVec.ofNat 32
      ((if 16 < s.straps.N then 1 else 0) + (if 4096 < s.straps.N then 2 else 0) +
        if s.straps.fill = .cnt then 4 else 0))) ∧
    (a.toNat = 5 → reads (if s.ctrlXor then 1#32 else 0#32)) ∧
    (a.toNat = 6 → reads (match s.estate with | .idle => 0#32 | .accum => 1#32 | .final => 2#32)) ∧
    (a.toNat = 7 → reads (BitVec.ofNat 32 s.j)) ∧
    (a.toNat = 8 → reads (BitVec.ofNat 32 s.outn)) ∧
    (a.toNat = 9 → reads s.faults) ∧
    (∀ i, i < s.straps.C → a.toNat = 0x010000 + i → reads (s.srefAt i)) ∧
    (9 < a.toNat → (∀ i, i < s.straps.C → a.toNat ≠ 0x010000 + i) →
      exec (.rdcsr a) s = .next (answersFault 0x11 (BitVec.ofNat 32 a.toNat) s))

/-- 30_encoding.md R109, 70_reset_and_hazards.md R396: the sequence `CONFIGURE` installs every legal table, from
whatever table stood before, and no command of it faults. -/
def Obligations.ConfigureInstallsTable : Prop :=
  ∀ (s : State) (b : Bool) (refs : List Word), countsLegal s.straps = true → s.estate = .idle →
    refs.length = s.straps.C → LegalTable refs →
    ∃ t, execAll (configure b refs) s = .next t ∧ t.ctrlXor = b ∧
      (∀ i, i < s.straps.C → t.srefAt i = elem refs i) ∧ t.faults = s.faults ∧
      t.responses = s.responses ++ (configure b refs).map fun _ => [0#32, 0#32]

/-! ## Zig-zag and LEB128 (41_zigzag_varint.md) -/

/-- R140 to R142: the zig-zag maps, on numbers, and that they are inverse bijections whose images fit. -/
def Obligations.ZigzagBijection : Prop :=
  (∀ x : Word, ((zzEnc x).toNat : Int) = if 0 ≤ x.toInt then 2 * x.toInt else -2 * x.toInt - 1) ∧
  (∀ x : Word, zzDec (zzEnc x) = x) ∧ (∀ u : Word, zzEnc (zzDec u) = u) ∧
  ∀ x : Word, (zzEnc x).toNat < 2 ^ 60 ∧ (uvPut (zzEnc x)).length ≤ 5

/-- R148: what `uv_put` and `sv_put` wrote is read back, wherever it stands, and its bytes counted. -/
def Obligations.VarintRoundTrip : Prop :=
  ∀ (x : Word) (P S : List Byte),
    uvGet (P ++ uvPut x ++ S) P.length = .ok (x, (uvPut x).length) ∧
    svGet (P ++ svPut x ++ S) P.length = .ok (x, (svPut x).length)

/-- R143: the length of `uv_put`; every byte but the last has its top bit set; and no other bytes that read as
`x` are fewer. -/
def Obligations.VarintShortest : Prop :=
  ∀ x : Word,
    ((uvPut x).length =
      if x.toNat < 2 ^ 7 then 1 else if x.toNat < 2 ^ 14 then 2
      else if x.toNat < 2 ^ 21 then 3 else if x.toNat < 2 ^ 28 then 4 else 5) ∧
    (∀ k, k < (uvPut x).length →
      ((uvPut x).getD k 0).toNat =
        x.toNat / 128 ^ k % 128 + if k + 1 < (uvPut x).length then 128 else 0) ∧
    ∀ (B : List Byte) (used : Nat), uvGet B 0 = .ok (x, used) → (uvPut x).length ≤ used

/-- R144, R145: what `uv_get` answers for every byte list: the value and the bytes used, `TruncatedInput` or
`Overflow`, each with the position the field started at. -/
def Obligations.VarintReadOutcomes : Prop :=
  ∀ (B : List Byte) (pos : Nat),
    let byte (k : Nat) := (B.getD (pos + k) 0).toNat
    (∀ k, k ≤ 4 → pos + k < B.length → (∀ m, m < k → 0x80 ≤ byte m) →
      byte k < (if k = 4 then 0x10 else 0x80) →
      uvGet B pos =
        .ok (BitVec.ofNat 32 (((List.range (k + 1)).map fun m => byte m % 128 * 128 ^ m).sum), k + 1)) ∧
    (∀ k, k ≤ 4 → B.length ≤ pos + k → (∀ m, m < k → 0x80 ≤ byte m) →
      uvGet B pos = .error ⟨.truncatedInput, BitVec.ofNat 32 pos⟩) ∧
    (pos + 4 < B.length → (∀ m, m < 4 → 0x80 ≤ byte m) → 0x10 ≤ byte 4 →
      uvGet B pos = .error ⟨.overflow, BitVec.ofNat 32 pos⟩)

/-! ## Simple8b (42_simple8b.md) -/

/-- R162 to R164, 30_encoding.md R97 to R99: what a word holds. Unpacking reads slot `k` at bits
`W·(k+1)-1 : W·k` and nothing else; packing writes them so, the selector in the top bits and the unused bits 0. -/
def Obligations.WordSlots : Prop :=
  ∀ (tab : List (Nat × Nat)) (sel : Nat) (row : Nat × Nat), s8tabLegal tab = true →
    tab[sel]? = some row →
    (∀ w : U64, w.toNat / 2 ^ 60 = sel →
      (s8UnpackWord tab w).map BitVec.toNat =
        (List.range row.1).map fun k => w.toNat / 2 ^ (row.2 * k) % 2 ^ row.2) ∧
    ∀ vs : List U64, vs.length = row.1 → (∀ v ∈ vs, v.toNat < 2 ^ row.2) →
      s8UnpackWord tab (s8PackWord tab sel vs) = vs ∧
      (s8PackWord tab sel vs).toNat / 2 ^ 60 = sel ∧
      (s8PackWord tab sel vs).toNat % 2 ^ 60 < 2 ^ (row.1 * row.2)

/-- R165, R166: the packer is greedy. The first word of a packed list has the smallest selector whose slots the
values that remain fill and fit, and the rest is packed the same way. -/
def Obligations.PackerIsGreedy : Prop :=
  ∀ (tab : List (Nat × Nat)) (vs : List U64), s8tabLegal tab = true → vs ≠ [] →
    (∀ v ∈ vs, v.toNat < 2 ^ 60) →
    let fits (row : Nat × Nat) := row.1 ≤ vs.length ∧ ∀ v ∈ vs.take row.1, v.toNat < 2 ^ row.2
    ∃ sel row, tab[sel]? = some row ∧ fits row ∧
      (∀ sel' row', sel' < sel → tab[sel']? = some row' → ¬fits row') ∧
      s8PackWords tab vs =
        s8PackWord tab sel (vs.take row.1) :: s8PackWords tab (vs.drop row.1)

/-- R167: with the default table, a run of 240 zeros takes selector 0, one of 120 selector 1, and no other run
takes either; 239 zeros pack as selectors 1, 2, 3, 4, 8, 15 and 241 as 0, 15. -/
def Obligations.ZeroRunsTakeSelectors : Prop :=
  (∀ vs : List U64, vs ≠ [] → (∀ v ∈ vs, v.toNat < 2 ^ 60) →
    (240 ≤ vs.length → (∀ v ∈ vs.take 240, v = 0) →
      s8PackWords s8tabDefault vs = 0#64 :: s8PackWords s8tabDefault (vs.drop 240)) ∧
    (¬(240 ≤ vs.length ∧ ∀ v ∈ vs.take 240, v = 0) → 120 ≤ vs.length →
      (∀ v ∈ vs.take 120, v = 0) →
      s8PackWords s8tabDefault vs =
        0x1000000000000000#64 :: s8PackWords s8tabDefault (vs.drop 120)) ∧
    (¬(120 ≤ vs.length ∧ ∀ v ∈ vs.take 120, v = 0) →
      ∃ w ws, s8PackWords s8tabDefault vs = w :: ws ∧ 2 ≤ w.toNat / 2 ^ 60)) ∧
  (s8PackWords s8tabDefault (List.replicate 239 0)).map (fun w => w.toNat / 2 ^ 60) =
    [1, 2, 3, 4, 8, 15] ∧
  (s8PackWords s8tabDefault (List.replicate 241 0)).map (fun w => w.toNat / 2 ^ 60) = [0, 15]

/-- R168: bounds on the number of words, with the default table. -/
def Obligations.PackedWordCount : Prop :=
  ∀ vs : List U64, (∀ v ∈ vs, v.toNat < 2 ^ 60) → ∀ ws, s8Pack s8tabDefault vs = .ok ws →
    (vs.length + 239) / 240 ≤ ws.length ∧ ws.length ≤ vs.length ∧
      (ws.flatMap toBe64).length ≤ 8 * vs.length ∧
      ∀ w ∈ ws, 1 ≤ (s8UnpackWord s8tabDefault w).length ∧
        (s8UnpackWord s8tabDefault w).length ≤ 240

/-- R171: the round trip of a sequence, by `unpack_all`, and by `unpack_until` wherever the words stand. -/
def Obligations.SequenceRoundTrip : Prop :=
  ∀ (tab : List (Nat × Nat)) (vs : List U64), s8tabLegal tab = true →
    (∀ v ∈ vs, v.toNat < 2 ^ 60) →
    ∃ ws, s8Pack tab vs = .ok ws ∧ s8UnpackAll tab ws = vs ∧
      ∀ P S : List Byte,
        s8UnpackUntil tab (P ++ ws.flatMap toBe64 ++ S) P.length vs.length = .ok (vs, ws.length)

/-- R174: `S8PACK` answers the packed words, each as high word then low word, and unpacking them all gives the
values back; with a value of 2^60 or more it faults with the index of the first. -/
def Obligations.S8packEffect : Prop :=
  ∀ (vs : List U64) (s : State), s8tabLegal s.straps.s8tab = true →
    ((∀ v ∈ vs, v.toNat < 2 ^ 60) →
      let ws := s8PackWords s.straps.s8tab vs
      exec (.s8pack vs) s = .next (answersOk
          (ws.flatMap fun w => [BitVec.ofNat 32 (w.toNat / 2 ^ 32), BitVec.ofNat 32 w.toNat]) s) ∧
        s8UnpackAll s.straps.s8tab ws = vs ∧ ws.length ≤ vs.length) ∧
    ∀ (q : Nat) (v : U64), vs[q]? = some v → 2 ^ 60 ≤ v.toNat →
      (∀ p u, p < q → vs[p]? = some u → u.toNat < 2 ^ 60) →
      exec (.s8pack vs) s = .next (answersFault 0x04 (BitVec.ofNat 32 q) s)

/-- R175, 30_encoding.md R95: `S8UNPK` answers every value of every word, in order, each as high word then low
word; a response whose count does not fit its word is refused with `BadOperand(K)`. -/
def Obligations.S8unpkEffect : Prop :=
  ∀ (ws : List U64) (s : State),
    let vs := ws.flatMap (s8UnpackWord s.straps.s8tab)
    (2 * vs.length ≤ 2 ^ 32 - 1 →
      exec (.s8unpk ws) s = .next (answersOk
        (vs.flatMap fun v => [BitVec.ofNat 32 (v.toNat / 2 ^ 32), BitVec.ofNat 32 v.toNat]) s)) ∧
    (2 ^ 32 - 1 < 2 * vs.length →
      exec (.s8unpk ws) s = .next (answersFault 0x11 (BitVec.ofNat 32 ws.length) s))

/-- R176, R169: `S8UNPKN` answers the fewest words that hold `n` values, and the first `n` values; with fewer
than `n` in all it faults with `TruncatedInput(8K)`. -/
def Obligations.S8unpknEffect : Prop :=
  ∀ (n : Word) (ws : List U64) (s : State),
    let all (k : Nat) := (ws.take k).flatMap (s8UnpackWord s.straps.s8tab)
    (n.toNat ≤ (all ws.length).length → 1 + 2 * n.toNat ≤ 2 ^ 32 - 1 →
      ∃ used, used ≤ ws.length ∧ n.toNat ≤ (all used).length ∧
        (∀ u, u < used → (all u).length < n.toNat) ∧
        exec (.s8unpkn n ws) s = .next (answersOk (BitVec.ofNat 32 used ::
          ((all ws.length).take n.toNat).flatMap fun v =>
            [BitVec.ofNat 32 (v.toNat / 2 ^ 32), BitVec.ofNat 32 v.toNat]) s)) ∧
    ((all ws.length).length < n.toNat →
      exec (.s8unpkn n ws) s = .next (answersFault 0x02 (BitVec.ofNat 32 (8 * ws.length)) s))

/-- 30_encoding.md R95 read with R176 (log 10, the model's inference): an `S8UNPKN` response whose count does
not fit its word is refused with `BadOperand(n)`. -/
def Obligations.S8unpknCountRefused : Prop :=
  ∀ (n : Word) (ws : List U64) (s : State),
    n.toNat ≤ (ws.flatMap (s8UnpackWord s.straps.s8tab)).length → 2 ^ 32 - 1 < 1 + 2 * n.toNat →
    exec (.s8unpkn n ws) s = .next (answersFault 0x11 n s)

/-- R172: the three commands read and write no block state but `FAULTS`, in any state. -/
def Obligations.S8CommandsArePure : Prop :=
  ∀ i : Instr, ((∃ vs, i = .s8pack vs) ∨ (∃ ws, i = .s8unpk ws) ∨ ∃ n ws, i = .s8unpkn n ws) →
    ∀ s s' : State, s'.straps = s.straps →
      ∃ r bits, exec i s =
          .next { s with responses := s.responses ++ [r], faults := s.faults ||| bits } ∧
        exec i s' =
          .next { s' with responses := s'.responses ++ [r], faults := s'.faults ||| bits }

/-- R164 for the sixteen word rows of spec/opcode_table.json: each answers the `N_sel` slots of its word, each as
high word then low word; a row of so many slots that the count does not fit its word is refused. That a bare
word is answered, and refused, so is the model's choice (log 4). -/
def Obligations.S8wordEffect : Prop :=
  ∀ (d : BitVec 60) (s : State), s8tabLegal s.straps.s8tab = true →
    let row (sel : Nat) := s.straps.s8tab.getD sel (0, 0)
    let slots (sel : Nat) : List Word :=
      (List.range (row sel).1).flatMap fun k =>
        let v := d.toNat / 2 ^ ((row sel).2 * k) % 2 ^ (row sel).2
        [BitVec.ofNat 32 (v / 2 ^ 32), BitVec.ofNat 32 v]
    let answered (sel : Nat) : State :=
      if 2 * (row sel).1 ≤ 2 ^ 32 - 1 then answersOk (slots sel) s else answersFault 0x11 1#32 s
    exec (.s8wSel0 d) s = .next (answered 0) ∧
    exec (.s8wSel1 d) s = .next (answered 1) ∧
    exec (.s8wSel2 d) s = .next (answered 2) ∧
    exec (.s8wSel3 d) s = .next (answered 3) ∧
    exec (.s8wSel4 d) s = .next (answered 4) ∧
    exec (.s8wSel5 d) s = .next (answered 5) ∧
    exec (.s8wSel6 d) s = .next (answered 6) ∧
    exec (.s8wSel7 d) s = .next (answered 7) ∧
    exec (.s8wSel8 d) s = .next (answered 8) ∧
    exec (.s8wSel9 d) s = .next (answered 9) ∧
    exec (.s8wSel10 d) s = .next (answered 10) ∧
    exec (.s8wSel11 d) s = .next (answered 11) ∧
    exec (.s8wSel12 d) s = .next (answered 12) ∧
    exec (.s8wSel13 d) s = .next (answered 13) ∧
    exec (.s8wSel14 d) s = .next (answered 14) ∧
    exec (.s8wSel15 d) s = .next (answered 15)

/-- Log 4 (the model's choice): a bare word does what `S8UNPK` of that one word does, in every state. -/
def Obligations.S8wordIsS8unpkOfOne : Prop :=
  ∀ (w : U64) (s : State), exec (decodeS8Word w) s = exec (.s8unpk [w]) s

/-! ## Predictor (43_predictor.md) -/

/-- R204 (from R201 to R203, R207): the residuals `ESAMP` answers for sample `j` of a message are the closed forms
of the table, in both modes, whatever `PREV` held when the message began; and what those forms give for a
constant, a linear and a quadratic channel. -/
def Obligations.ResidualClosedForm : Prop :=
  (∀ (s : State) (xs : List Sample) (x : Sample), s.j = 0 → xs.length < s.straps.N →
    ∃ t u more, execAll (xs.map Sample.esamp) s = .next t ∧ exec x.esamp t = .next u ∧
      u.responses = t.responses ++ [0#32 :: BitVec.ofNat 32 (s.straps.C + more.length) ::
        ((List.range s.straps.C).map (fun i =>
          closedResidual s.ctrlXor (reduced s.srefAt (xs ++ [x]) i) xs.length) ++ more)]) ∧
  (∀ (xor : Bool) (c : Word) (j : Nat), closedResidual xor (fun _ => c) (j + 1) = 0) ∧
  (∀ (a b : Word) (j : Nat),
    closedResidual false (fun n => a + b * BitVec.ofNat 32 n) 1 = b ∧
    closedResidual false (fun n => a + b * BitVec.ofNat 32 n) (j + 2) = 0) ∧
  ∀ (a b c : Word) (j : Nat), closedResidual false
    (fun n => a + b * BitVec.ofNat 32 n + c * BitVec.ofNat 32 (n * n)) (j + 3) = 0

/-- R205: what `PREV` holds after sample `j` of a message: the sample, and the successive differences that end at
it; layers above `min(j, 2)` are as before the message. -/
def Obligations.PrevHoldsDifferences : Prop :=
  ∀ (s : State) (xs : List Sample), s.j = 0 → xs ≠ [] → xs.length < s.straps.N →
    ∃ t, execAll (xs.map Sample.esamp) s = .next t ∧ ∀ i, i < s.straps.C →
      let x := reduced s.srefAt xs i
      let j := xs.length - 1
      t.prevAt 0 i = x j ∧
      t.prevAt 1 i = (if 1 ≤ j then ominus s.ctrlXor (x j) (x (j - 1)) else s.prevAt 1 i) ∧
      t.prevAt 2 i = (if 2 ≤ j then
          ominus s.ctrlXor (ominus s.ctrlXor (x j) (x (j - 1)))
            (ominus s.ctrlXor (x (j - 1)) (x (j - 2)))
        else s.prevAt 2 i) ∧
      ∀ k, 3 ≤ k → t.prevAt k i = s.prevAt k i

/-- R216: after sample `j >= 1` has been reconstructed, layer `k` of `DSUM` is the encoder's `PREV[k+1]` after
that sample, the layers above are still 0, and `OUT[j]` is the sample the encoder saw. -/
def Obligations.DsumMirrorsPrev : Prop :=
  ∀ (e d : State) (xs : List Sample), e.j = 0 → 2 ≤ xs.length → xs.length < e.straps.N →
    d.ctrlXor = e.ctrlXor → (∀ k i, d.dsumAt k i = 0) →
    ∃ t, execAll (xs.map Sample.esamp) e = .next t ∧
      let j := xs.length - 1
      let u := rebuild (residualAt e.ctrlXor e.srefAt xs) (places xs.length e.straps.C) d
      ∀ i, i < e.straps.C →
        (∀ k, k + 1 ≤ min j 2 → u.dsumAt k i = t.prevAt (k + 1) i) ∧
        (∀ k, min j 2 ≤ k → u.dsumAt k i = 0) ∧
        u.outValueAt j i = reduced e.srefAt xs i j

/-- R217 (with R210, R214, R215): the round trip of the predictor, for every legal table, both modes, every
sequence of samples and every visiting order R210 allows: before the fixup `OUT` holds the reduced values, after
it the original ones. With the table on one side only, the output is off by the reference channel's value. -/
def Obligations.PredictorRoundTrip : Prop :=
  ∀ (d : State) (xs : List Sample) (order : List (Nat × Nat)), SpatialLegal d →
    (∀ x ∈ xs, x.fits d.straps.C) → (∀ k i, d.dsumAt k i = 0) →
    LegalOrder xs.length d.straps.C order →
    let decoded (ref : Nat → Word) (s : State) := rebuild (residualAt d.ctrlXor ref xs) order s
    (∀ j i, j < xs.length → i < d.straps.C →
      let x (k : Nat) := elem (xs.getD j ([], [])).1 k
      let r := d.srefAt i
      (decoded d.srefAt d).outValueAt j i = (if 0 ≤ r.toInt then x i - x r.toNat else x i) ∧
      (fixup xs.length (decoded d.srefAt d)).outValueAt j i = x i ∧
      (fixup xs.length (decoded d.srefAt { d with sref := [] })).outValueAt j i =
        (if 0 ≤ r.toInt then x i - x r.toNat else x i) ∧
      (fixup xs.length (decoded (fun _ => noRef) d)).outValueAt j i =
        (if 0 ≤ r.toInt then x i + x r.toNat else x i)) ∧
    (strapsLegal d.straps = true → xs ≠ [] → xs.length ≤ d.straps.N → ∀ (xor : Bool) (ref : Nat → Word),
      let payload := messagePayload d.straps xor ref xs
      ∃ t, exec (.dpay (BitVec.ofNat 32 xs.length) payload) d = .next t ∧ t.faults = d.faults ∧
        t.outn = xs.length ∧
        t.responses = d.responses ++ [[0#32, 2#32, BitVec.ofNat 32 payload.length,
          BitVec.ofNat 32 xs.length]])

/-! ## Quality runs (44_quality_rle.md) -/

/-- R233: the run vectors after `J` samples of a message: R37 (3), and expanding them gives the quality words
back in order. -/
def Obligations.RunsDescribeQuality : Prop :=
  ∀ (s : State) (xs : List Sample), strapsLegal s.straps = true → s.j = 0 → xs ≠ [] →
    xs.length < s.straps.N →
    ∃ t, execAll (xs.map Sample.esamp) s = .next t ∧ t.j = xs.length ∧
      ∀ i, i < s.straps.C → RunsAccumulate t i ∧
        ((List.range (t.runcntAt i)).flatMap fun r =>
          List.replicate (t.runAt i r).len.toNat (t.runAt i r).value) = qualityWords xs i

/-- R245: what the encoder's runs serialise to, flushed, the expander reads back byte for byte; in mode `CNT` every
quality word is the input's, in mode `ABS` those of every channel whose runs but the first and the last have
length 1. -/
def Obligations.QualityRoundTrip : Prop :=
  ∀ (s d : State) (xs : List Sample) (P S : List Byte), strapsLegal s.straps = true → s.j = 0 →
    xs ≠ [] → xs.length ≤ s.straps.N → d.straps = s.straps →
    let bytes := qualitySection (flushRuns (List.range s.straps.C) (feed xs s))
    ∃ t, expandAll (P ++ bytes ++ S) xs.length (List.range s.straps.C) d P.length =
        .ok (t, P.length + bytes.length) ∧
      ∀ i, i < s.straps.C →
        (s.straps.fill = .cnt ∨ (∀ r, 0 < r → r + 1 < (runsOf (qualityWords xs i)).length →
          ((runsOf (qualityWords xs i)).getD r (0, 0)).2 = 1)) →
        ∀ j, j < xs.length → t.outQualityAt j i = elem (xs.getD j ([], [])).2 i

/-- R244, R241, R246: exactly which entries mode `ABS` writes for a channel: all of the first run; the start of a
middle run and its entries below its length; the last run up to `N - 1`. What it writes is the run's value, and
every other entry keeps its content. -/
def Obligations.AbsFillWrites : Prop :=
  ∀ (d : State) (qs : List Word) (P S : List Byte) (i : Nat), strapsLegal d.straps = true →
    d.straps.fill = .abs → qs ≠ [] → qs.length ≤ d.straps.N →
    let runs := runsOf qs
    let bytes := wireBytes (wireRuns runs)
    ∃ t, expandRuns (P ++ bytes ++ S) i qs.length qs.length 0 d P.length =
        .ok (t, P.length + bytes.length) ∧
      t = { d with outQuality := t.outQuality } ∧
      (∀ r v l j, runs[r]? = some (v, l) → runStart runs r ≤ j → j < runStart runs r + l →
        t.outQualityAt j i =
          if r = 0 ∨ r + 1 = runs.length ∨ j = runStart runs r ∨ j < l then qs.getD j 0
          else d.outQualityAt j i) ∧
      (∀ j, qs.length ≤ j → j < d.straps.N → t.outQualityAt j i = qs.getD (qs.length - 1) 0) ∧
      (∀ j, d.straps.N ≤ j → t.outQualityAt j i = d.outQualityAt j i) ∧
      ∀ j i', i' ≠ i → t.outQualityAt j i' = d.outQualityAt j i'

/-- R244: in mode `ABS` the quality of a channel comes back for every earlier content of `OUT` exactly when every
run but the first and the last has length 1. -/
def Obligations.AbsRoundTripCondition : Prop :=
  ∀ (p : Straps) (qs : List Word) (i : Nat), strapsLegal p = true → p.fill = .abs →
    qs ≠ [] → qs.length ≤ p.N →
    ((∀ d t : State, ∀ pos, d.straps = p →
        expandRuns (wireBytes (wireRuns (runsOf qs))) i qs.length qs.length 0 d 0 = .ok (t, pos) →
        ∀ j, j < qs.length → t.outQualityAt j i = qs.getD j 0) ↔
      ∀ r, 0 < r → r + 1 < (runsOf qs).length → ((runsOf qs).getD r (0, 0)).2 = 1)

/-! ## Encode commands (45_message_encode.md) -/

/-- R261 with R201 to R203, R231, R232, R262 to R265: what `ESAMP` does, sample by sample: the predictor and push
in full, then the response; when the message is full, its payload, and the scratch state cleared. -/
def Obligations.EsampEffect : Prop :=
  ∀ (v q : List Word) (s : State), ∃ u : State, AfterSample v q s u ∧
    (s.j + 1 ≠ s.straps.N →
      exec (.esamp v q) s = .next (answersOk (nextResiduals s v ++ [0#32]) u)) ∧
    (s.j + 1 = s.straps.N → ∃ t, Finalised u t ∧
      exec (.esamp v q) s = .next (answersOk
        (nextResiduals s v ++ 1#32 :: payloadWords s.straps.N (payloadFrom u s.straps.N)) t))

/-- R266 with R262 to R265, R234, R235: what `EFLUSH` does, with and without samples. -/
def Obligations.EflushEffect : Prop :=
  ∀ s : State,
    (s.j = 0 → exec .eflush s = .next (answersFault 0x05 0 s)) ∧
    (s.j ≠ 0 → ∃ t, Finalised s t ∧
      exec .eflush s = .next (answersOk (payloadWords s.j (payloadFrom s s.j)) t))

/-- R267: what `ECANCEL` does, in every state. -/
def Obligations.EcancelEffect : Prop :=
  ∀ s : State, ∃ t : State, exec .ecancel s = .next (answersOk [] t) ∧
    t = { s with j := 0, estate := .idle, prev := t.prev, runcnt := t.runcnt } ∧
    (∀ k i, t.prevAt k i = 0) ∧ ∀ i, t.runcntAt i = 0

/-- R268: every transition of `ESTATE` and `J`. -/
def Obligations.EncodeStateTransitions : Prop :=
  ∀ (i : Instr) (s : State), Sequenced s → ∃ t, exec i s = .next t ∧
    match i with
    | .esamp _ _ =>
      if s.j + 1 = s.straps.N then t.estate = .idle ∧ t.j = 0 else t.estate = .accum ∧ t.j = s.j + 1
    | .eflush => t.estate = .idle ∧ t.j = 0
    | .ecancel => t.estate = .idle ∧ t.j = 0
    | _ => t.estate = s.estate ∧ t.j = s.j

/-- R262 to R265, 44_quality_rle.md R234, R235, 30_encoding.md R102: the payload of a whole message is the one its
samples determine, in both modes, for a full message and for a flushed one. -/
def Obligations.MessagePayloadFromSamples : Prop :=
  ∀ (s : State) (xs : List Sample), strapsLegal s.straps = true → s.j = 0 → xs ≠ [] →
    xs.length ≤ s.straps.N →
    ∃ t before ahead, execAll (encodeMessage s.straps.N xs) s = .next t ∧
      t.responses = s.responses ++ before ++ [0#32 :: BitVec.ofNat 32 (ahead.length +
          (payloadWords xs.length (messagePayload s.straps s.ctrlXor s.srefAt xs)).length) ::
        (ahead ++ payloadWords xs.length (messagePayload s.straps s.ctrlXor s.srefAt xs))] ∧
      ahead.length = (if xs.length = s.straps.N then s.straps.C + 1 else 0) ∧
      t.j = 0 ∧ t.estate = .idle ∧ (∀ k i, t.prevAt k i = 0) ∧
      (∀ i, i < s.straps.C → t.runcntAt i = 0) ∧ SameConfig s t ∧ SameDecodeSide s t ∧
      t.faults = s.faults

/-- R269, 44_quality_rle.md R236: the size of a payload, and that under legal straps it fits the byte count of
`DPAY`. The bounds hold for every legal selector table but the lower bound of the Simple8b values section, which
is the default table's. -/
def Obligations.PayloadSizeBounds : Prop :=
  ∀ (p : Straps) (xor : Bool) (ref : Nat → Word) (xs : List Sample), strapsLegal p = true →
    xs ≠ [] → xs.length ≤ p.N →
    let values := (messageValues p xor ref xs).length
    let quality := (messageQuality p xs).length
    let es := xs.length
    (16 < p.N → values ≤ 8 * p.C * es ∧
      (p.s8tab = s8tabDefault → 8 * p.C * ((es + 239) / 240) ≤ values)) ∧
    (p.N ≤ 16 → p.C * es ≤ values ∧ values ≤ 5 * p.C * es) ∧
    2 * p.C ≤ quality ∧ quality ≤ 10 * p.C * es ∧
    (messagePayload p xor ref xs).length ≤ 18 * p.C * es ∧
    (messagePayload p xor ref xs).length < 2 ^ 24

/-! ## Decode commands (46_message_decode.md) -/

/-- R291, 60_exceptions.md R362, R364: `DPAY` with `es <= 0` is refused before anything is written; with `es > 0`
it ends `OK` with the bytes consumed and the length `min(es, N)`, or with a data fault; either way `DSUM` is zero
after it, and the encode side and the configuration are untouched. -/
def Obligations.DpayOutcomes : Prop :=
  ∀ (es : Word) (bytes : List Byte) (s : State),
    (es.toInt ≤ 0 → exec (.dpay es bytes) s = .next (answersFault 0x11 es s)) ∧
    (0 < es.toInt → ∃ t, exec (.dpay es bytes) s = .next t ∧ (∀ k i, t.dsumAt k i = 0) ∧
      SameConfig s t ∧ SameEncodeSide s t ∧ SameOutside s t ∧
      ((∃ consumed, consumed ≤ bytes.length ∧ t.outn = min es.toNat s.straps.N ∧
          t.faults = s.faults ∧ t.outEpoch = s.outEpoch ∧
          t.responses = s.responses ++ [[0#32, 2#32, BitVec.ofNat 32 consumed,
            BitVec.ofNat 32 (min es.toNat s.straps.N)]]) ∨
        ∃ code info, (code = 0x02 ∨ code = 0x04 ∨ code = 0x12) ∧ t.outn = 0 ∧
          t.faults = s.faults ||| BitVec.ofNat 32 (2 ^ code) ∧
          t.responses = s.responses ++ [[BitVec.ofNat 32 (code * 2 ^ 24), 1#32, info]]))

/-- R291 to R296: where the parser reads the payload through, `DPAY` completes: `OUT` is what the parser wrote,
`OUTN` the effective length, `DSUM` zero again, the rest as before. -/
def Obligations.DpayCompletes : Prop :=
  ∀ (es : Word) (bytes : List Byte) (s u : State) (pos : Nat), 0 < es.toInt →
    parsePayload bytes (min es.toNat s.straps.N) { s with outn := 0, dsum := [] } = .ok (u, pos) →
    exec (.dpay es bytes) s = .next (answersOk
      [BitVec.ofNat 32 pos, BitVec.ofNat 32 (min es.toNat s.straps.N)]
      { s with
        outn := min es.toNat s.straps.N, dsum := []
        outValues := u.outValues, outQuality := u.outQuality })

/-- R292, 42_simple8b.md R169, 60_exceptions.md R358, R360, R364: the faults of the values section in Simple8b
mode, with their info words. In the first channel that cannot be read: where the whole words from its start `pos`
on hold fewer than `n` values, `TruncatedInput` with the position of the missing word, whatever the slots hold;
otherwise `RangeFault` with the first slot of 2^32 or more. -/
def Obligations.DpaySlotFaults : Prop :=
  ∀ (es : Word) (bytes tail : List Byte) (s : State) (i pos : Nat) (ws : List U64), 0 < es.toInt →
    16 < s.straps.N → i < s.straps.C →
    let n := min es.toNat s.straps.N
    let vs := ws.flatMap (s8UnpackWord s.straps.s8tab)
    channelsEnd s.straps.s8tab bytes n i = some pos → bytes.drop pos = ws.flatMap toBe64 ++ tail →
    (tail.length < 8 → vs.length < n →
      DpayAborts es bytes s 0x02 (BitVec.ofNat 32 (pos + 8 * ws.length))) ∧
    ∀ (q : Nat) (z : U64), n ≤ vs.length → q < n → vs[q]? = some z → 2 ^ 32 ≤ z.toNat →
      (∀ (p : Nat) (y : U64), p < q → vs[p]? = some y → y.toNat < 2 ^ 32) →
      DpayAborts es bytes s 0x12 (BitVec.ofNat 32 z.toNat)

/-- R293, R295, R296, 41_zigzag_varint.md R144, 44_quality_rle.md R240, R242, R243: the faults of the LEB128 fields of
a payload, with their info words: in the values section in varint mode, and in the quality section after a values
section that was read. A field that is cut off or overlong faults with the position it starts at, a run length
above `N` with the length; the first such field in stream order decides. -/
def Obligations.DpayFieldFaults : Prop :=
  ∀ (es : Word) (bytes : List Byte) (s : State), 0 < es.toInt → 1 ≤ s.straps.N →
    let n := min es.toNat s.straps.N
    let aborts := DpayAborts es bytes s
    (s.straps.N ≤ 16 → ∀ k pos, k < n * s.straps.C → fieldsEnd bytes k 0 = some pos →
      (FieldCut bytes pos → aborts 0x02 (BitVec.ofNat 32 pos)) ∧
      (FieldOverlong bytes pos → aborts 0x04 (BitVec.ofNat 32 pos))) ∧
    ∀ start k i cur pos, valuesEnd s.straps bytes n = some start →
      pairAt s.straps.N n bytes k (0, 0, start) = some (i, cur, pos) → i < s.straps.C →
      (FieldCut bytes pos → aborts 0x02 (BitVec.ofNat 32 pos)) ∧
      (FieldOverlong bytes pos → aborts 0x04 (BitVec.ofNat 32 pos)) ∧
      ∀ v used, uvGet bytes pos = .ok (v, used) →
        (FieldCut bytes (pos + used) → aborts 0x02 (BitVec.ofNat 32 (pos + used))) ∧
        (FieldOverlong bytes (pos + used) → aborts 0x04 (BitVec.ofNat 32 (pos + used))) ∧
        ∀ l more, uvGet bytes (pos + used) = .ok (l, more) → s.straps.N < l.toNat → aborts 0x12 l

/-- 44_quality_rle.md R240 to R242, R246: what the expander does with one pair `(v, l)`. A length above `N` is a
`RangeFault` with the length; a length of `N` or less is accepted: `v` is written at the cursor and at the entries
of the fill (to `N` for the sentinel 0) and nowhere else, and the expander goes on after the pair, at the cursor
moved by `l`, or is done with the channel when that reaches `n` or `l` is 0. -/
def Obligations.QualityLengthRange : Prop :=
  ∀ (B : List Byte) (i n fuel cur pos pos' : Nat) (v l : Word) (s : State),
    cur < n → n ≤ s.straps.N → readPair B pos = .ok (v, l, pos') →
    (s.straps.N < l.toNat →
      expandRuns B i n (fuel + 1) cur s pos = .error ⟨.rangeFault, l⟩) ∧
    (l.toNat ≤ s.straps.N → ∃ u,
      u = { s with outQuality := u.outQuality } ∧
      (∀ j i', u.outQualityAt j i' =
        if i' = i ∧ (j = cur ∨ cur < j ∧ j < (if l = 0 then s.straps.N else match s.straps.fill with
            | .abs => l.toNat
            | .cnt => min (cur + l.toNat) s.straps.N)) then v
        else s.outQualityAt j i') ∧
      expandRuns B i n (fuel + 1) cur s pos =
        if l = 0 ∨ n ≤ cur + l.toNat then .ok (u, pos')
        else expandRuns B i n fuel (cur + l.toNat) u pos')

/-- R297: bytes after those the parser consumed do not matter. -/
def Obligations.TrailingBytesIgnored : Prop :=
  ∀ (es : Word) (bytes S : List Byte) (s t : State) (consumed n : Nat), consumed ≤ bytes.length →
    bytes.length < 2 ^ 32 → exec (.dpay es bytes) s = .next t →
    t.responses = s.responses ++ [[0#32, 2#32, BitVec.ofNat 32 consumed, BitVec.ofNat 32 n]] →
    exec (.dpay es (bytes.take consumed ++ S)) s = .next t

/-- R299, R246: what a successful `DPAY` of length `n` leaves in `OUT`: no value at or beyond `n`, no quality word
at or beyond `N`, and no channel beyond the last is written. -/
def Obligations.DpayWritesOnlyItsEntries : Prop :=
  ∀ (es : Word) (bytes : List Byte) (s t : State), exec (.dpay es bytes) s = .next t →
    t.faults = s.faults → 0 < es.toInt → t.outn = min es.toNat s.straps.N → 0 < s.straps.N →
    (∀ j i, t.outn ≤ j ∨ s.straps.C ≤ i → t.outValueAt j i = s.outValueAt j i) ∧
    ∀ j i, s.straps.N ≤ j ∨ s.straps.C ≤ i → t.outQualityAt j i = s.outQualityAt j i

/-- R298: `RDOUT` answers a decoded sample and changes nothing; beyond `OUTN` it faults. -/
def Obligations.RdoutEffect : Prop :=
  ∀ (j : BitVec 24) (s : State),
    (j.toNat < s.outn → exec (.rdout j) s = .next (answersOk
      ((List.range s.straps.C).map (fun i => s.outValueAt j.toNat i) ++
        (List.range s.straps.C).map fun i => s.outQualityAt j.toNat i) s)) ∧
    (s.outn ≤ j.toNat →
      exec (.rdout j) s = .next (answersFault 0x11 (BitVec.ofNat 32 j.toNat) s))

/-- R300, R297: the message round trip. The payload of the samples, as `ENCODE_MESSAGE` answers it, given with any
bytes after it to `DPAY` on a block with the same straps and configuration, comes back as the samples: every
value, and every quality word in mode `CNT`, or in mode `ABS` of a channel that meets the condition of R244. -/
def Obligations.MessageRoundTrip : Prop :=
  ∀ (e d : State) (xs : List Sample) (S : List Byte), strapsLegal e.straps = true → e.j = 0 →
    xs ≠ [] → xs.length ≤ e.straps.N → (∀ x ∈ xs, x.fits e.straps.C) →
    d.straps = e.straps → SameConfig e d → SpatialLegal d →
    ∃ t u before ahead payload, execAll (encodeMessage e.straps.N xs) e = .next t ∧
      t.responses = e.responses ++ before ++ [0#32 ::
        BitVec.ofNat 32 (ahead.length + (payloadWords xs.length payload).length) ::
          (ahead ++ payloadWords xs.length payload)] ∧
      exec (.dpay (BitVec.ofNat 32 xs.length) (payload ++ S)) d = .next u ∧
      u.responses = d.responses ++ [[0#32, 2#32, BitVec.ofNat 32 payload.length,
        BitVec.ofNat 32 xs.length]] ∧
      u.outn = xs.length ∧ u.faults = d.faults ∧
      ∀ i, i < e.straps.C → ∀ j, j < xs.length →
        u.outValueAt j i = elem (xs.getD j ([], [])).1 i ∧
        ((e.straps.fill = .cnt ∨ ∀ r, 0 < r → r + 1 < (runsOf (qualityWords xs i)).length →
            ((runsOf (qualityWords xs i)).getD r (0, 0)).2 = 1) →
          u.outQualityAt j i = elem (xs.getD j ([], [])).2 i)

/-- 30_encoding.md R109: `DECODE_MESSAGE` is `DPAY` and, if it returned `OK` with length `n`, `RDOUT 0` to
`RDOUT n-1`, which answer the decoded samples in order and change nothing; after a faulted `DPAY` nothing more is
issued. -/
def Obligations.DecodeMessageExpansion : Prop :=
  ∀ (es : Word) (bytes : List Byte) (s : State), strapsLegal s.straps = true →
    ∃ t r, exec (.dpay es bytes) s = .next t ∧ t.responses = s.responses ++ [r] ∧
      issueDecodeMessage es bytes s = execAll (decodeMessage es bytes r) s ∧
      (r.head? ≠ some 0#32 →
        decodeMessage es bytes r = [.dpay es bytes] ∧ issueDecodeMessage es bytes s = .next t) ∧
      (r.head? = some 0#32 →
        let n := min es.toNat s.straps.N
        r.drop 3 = [BitVec.ofNat 32 n] ∧
        decodeMessage es bytes r =
          .dpay es bytes :: (List.range n).map (fun j => .rdout (BitVec.ofNat 24 j)) ∧
        issueDecodeMessage es bytes s = .next { t with
          responses := t.responses ++ (List.range n).map fun j =>
            0#32 :: BitVec.ofNat 32 (2 * s.straps.C) ::
              ((List.range s.straps.C).map (fun i => t.outValueAt j i) ++
                (List.range s.straps.C).map fun i => t.outQualityAt j i) })

/-! ## The host's message (47_host_contract.md) -/

/-- R320 to R323, R329: a message the host builds opens to its first timestamp, count and payload, whenever
decompress inverts compress; with another stream id it is refused, and so is one shorter than a header. -/
def Obligations.HostMessageRoundTrip : Prop :=
  ∀ (deflate : List Byte → List Byte) (inflate : List Byte → Option (List Byte)) (p : Straps)
    (streamId other : List Byte) (firstT : U64) (es : Word) (payload : List Byte),
    (∀ b, inflate (deflate b) = some b) → streamId.length = 16 →
    let m := buildMessage deflate p streamId firstT es payload
    openMessage inflate p streamId m = .ok (firstT, es, payload) ∧
    (other ≠ streamId → openMessage inflate p other m = .error .idMismatch) ∧
    ∀ k, k < 25 → openMessage inflate p streamId (m.take k) = .error .stateViolation
end

