-- ==== Sys2Proof/Laws/Answers.lean ====
section
/-! SUPPORT. What answering and taking a fault can do, each said once: `respond` and `raiseFault` in the form
of 30_encoding.md R95 and 60_exceptions.md R358, and what each leaves of every field. -/

namespace Sys2Proof.Machine

theorem respond_eq (ws : List Word) (s : State) : respond ws s = answersOk ws s := by
  simp [respond, answersOk, responsePacket, statusWord, natWord]

theorem raiseFault_eq (f : FaultKind) (info : Word) (s : State) :
    raiseFault f info s = answersFault f.code.toNat info s := by
  cases f <;> simp [raiseFault, answersFault, responsePacket, statusWord, natWord, FaultKind.code,
    stickyFaults, FaultKind.bit]

theorem argWord_eq (a : BitVec 24) : argWord a = BitVec.ofNat 32 a.toNat := by
  apply BitVec.eq_of_toNat_eq; simp [argWord]

/-- All that answering unpacked values can do (30_encoding.md R95). -/
theorem answerUnpacked_eq (k : Nat) (vs : List U64) (s : State) :
    answerUnpacked k vs s = .next (if 2 * vs.length ≤ 2 ^ 32 - 1 then answersOk (packU64s vs) s
      else answersFault 0x11 (natWord k) s) := by
  unfold answerUnpacked countFits
  split <;> rename_i h <;> simp only [Nat.zero_add, decide_eq_true_eq] at h
  · rw [if_pos h, respond_eq]
  · rw [if_neg h, raiseFault_eq]; rfl

/-- All that a reset, between commands or in the middle of one, can do. -/
theorem resetWith_next {p : Pins} {s t : State} (h : resetWith p s = .next t) :
    p = s.straps.toPins ∧ t = takeReset s := by
  unfold resetWith at h
  split at h
  · rename_i hp; injection h with h; exact ⟨hp, h.symm⟩
  · cases h

/-- Commands run one after another: the first, then the others from where it ends (20_memory.md R71). -/
theorem execAll_cons {i : Instr} {s t : State} (h : exec i s = .next t) (is : List Instr) :
    execAll (i :: is) s = execAll is t := by simp only [execAll, h]

/-- What the host reads back depends on the response of its `DPAY` alone (30_encoding.md R109). -/
theorem issueDecodeMessage_eq {es : Word} {bytes : List Byte} {s t : State}
    (h : exec (.dpay es bytes) s = .next t) :
    issueDecodeMessage es bytes s = execAll (decodeMessage es bytes (t.responses.getLastD [])) s := by
  rw [decodeMessage, execAll_cons h]; simp only [issueDecodeMessage, h]

@[simp] theorem answersOk_ctrlXor (ws : List Word) (s : State) : (answersOk ws s).ctrlXor = s.ctrlXor := rfl
@[simp] theorem answersOk_sref (ws : List Word) (s : State) : (answersOk ws s).sref = s.sref := rfl
@[simp] theorem answersOk_estate (ws : List Word) (s : State) : (answersOk ws s).estate = s.estate := rfl
@[simp] theorem answersOk_j (ws : List Word) (s : State) : (answersOk ws s).j = s.j := rfl
@[simp] theorem answersOk_prev (ws : List Word) (s : State) : (answersOk ws s).prev = s.prev := rfl
@[simp] theorem answersOk_res (ws : List Word) (s : State) : (answersOk ws s).res = s.res := rfl
@[simp] theorem answersOk_run (ws : List Word) (s : State) : (answersOk ws s).run = s.run := rfl
@[simp] theorem answersOk_runcnt (ws : List Word) (s : State) : (answersOk ws s).runcnt = s.runcnt := rfl
@[simp] theorem answersOk_dsum (ws : List Word) (s : State) : (answersOk ws s).dsum = s.dsum := rfl
@[simp] theorem answersOk_outValues (ws : List Word) (s : State) : (answersOk ws s).outValues = s.outValues := rfl
@[simp] theorem answersOk_outQuality (ws : List Word) (s : State) : (answersOk ws s).outQuality = s.outQuality := rfl
@[simp] theorem answersOk_outn (ws : List Word) (s : State) : (answersOk ws s).outn = s.outn := rfl
@[simp] theorem answersOk_straps (ws : List Word) (s : State) : (answersOk ws s).straps = s.straps := rfl
@[simp] theorem answersOk_port (ws : List Word) (s : State) : (answersOk ws s).port = s.port := rfl
@[simp] theorem answersOk_outEpoch (ws : List Word) (s : State) : (answersOk ws s).outEpoch = s.outEpoch := rfl
@[simp] theorem answersOk_memEpoch (ws : List Word) (s : State) : (answersOk ws s).memEpoch = s.memEpoch := rfl
@[simp] theorem answersOk_faults (ws : List Word) (s : State) : (answersOk ws s).faults = s.faults := rfl
@[simp] theorem answersOk_responses (ws : List Word) (s : State) : (answersOk ws s).responses =
    s.responses ++ [0#32 :: BitVec.ofNat 32 ws.length :: ws] := rfl

@[simp] theorem answersFault_ctrlXor (c : Nat) (w : Word) (s : State) : (answersFault c w s).ctrlXor = s.ctrlXor := rfl
@[simp] theorem answersFault_sref (c : Nat) (w : Word) (s : State) : (answersFault c w s).sref = s.sref := rfl
@[simp] theorem answersFault_estate (c : Nat) (w : Word) (s : State) : (answersFault c w s).estate = s.estate := rfl
@[simp] theorem answersFault_j (c : Nat) (w : Word) (s : State) : (answersFault c w s).j = s.j := rfl
@[simp] theorem answersFault_prev (c : Nat) (w : Word) (s : State) : (answersFault c w s).prev = s.prev := rfl
@[simp] theorem answersFault_res (c : Nat) (w : Word) (s : State) : (answersFault c w s).res = s.res := rfl
@[simp] theorem answersFault_run (c : Nat) (w : Word) (s : State) : (answersFault c w s).run = s.run := rfl
@[simp] theorem answersFault_runcnt (c : Nat) (w : Word) (s : State) : (answersFault c w s).runcnt = s.runcnt := rfl
@[simp] theorem answersFault_dsum (c : Nat) (w : Word) (s : State) : (answersFault c w s).dsum = s.dsum := rfl
@[simp] theorem answersFault_outValues (c : Nat) (w : Word) (s : State) : (answersFault c w s).outValues = s.outValues := rfl
@[simp] theorem answersFault_outQuality (c : Nat) (w : Word) (s : State) : (answersFault c w s).outQuality = s.outQuality := rfl
@[simp] theorem answersFault_outn (c : Nat) (w : Word) (s : State) : (answersFault c w s).outn = s.outn := rfl
@[simp] theorem answersFault_straps (c : Nat) (w : Word) (s : State) : (answersFault c w s).straps = s.straps := rfl
@[simp] theorem answersFault_port (c : Nat) (w : Word) (s : State) : (answersFault c w s).port = s.port := rfl
@[simp] theorem answersFault_outEpoch (c : Nat) (w : Word) (s : State) : (answersFault c w s).outEpoch = s.outEpoch := rfl
@[simp] theorem answersFault_memEpoch (c : Nat) (w : Word) (s : State) : (answersFault c w s).memEpoch = s.memEpoch := rfl
@[simp] theorem answersFault_faults (c : Nat) (w : Word) (s : State) : (answersFault c w s).faults =
    s.faults ||| BitVec.ofNat 32 (2 ^ c) := rfl
@[simp] theorem answersFault_responses (c : Nat) (w : Word) (s : State) : (answersFault c w s).responses =
    s.responses ++ [[BitVec.ofNat 32 (c * 2 ^ 24), 1#32, w]] := rfl

end Sys2Proof.Machine
end

