-- ==== Sys2Proof/Laws/DataFaults.lean ====
section
/-! SUPPORT. The faults that the byte-stream readers and the payload parser can end with, each said once
(60_exceptions.md R350 to R352, R356). -/

namespace Sys2Proof.Machine

/-- `s8b_unpack_until` can only run out of words (42_simple8b.md R169). -/
theorem s8UntilFrom_error (tab : List (Nat × Nat)) (B : List Byte) (pos n : Nat) (f : Raised)
    (h : s8UntilFrom tab B pos n = .error f) : f.kind = .truncatedInput := by
  fun_induction s8UntilFrom tab B pos n <;> simp_all
  · rw [← h]

/-- `uv_get` can only be truncated or overflow (41_zigzag_varint.md R144). -/
theorem uvGetFrom_error (pos k : Nat) (x : Word) (B : List Byte) (f : Raised)
    (h : uvGetFrom pos k x B = .error f) : f.kind = .truncatedInput ∨ f.kind = .overflow := by
  induction B generalizing k x with
  | nil => simp [uvGetFrom] at h; rw [← h]; simp
  | cons b B ih =>
    unfold uvGetFrom at h
    split at h
    · simp at h; rw [← h]; simp
    · simp only at h
      split at h
      · cases h
      · exact ih _ _ h

/-- The data faults of `DPAY` (60_exceptions.md R360). -/
def DataFault (f : Raised) : Prop := f.kind = .truncatedInput ∨ f.kind = .overflow ∨ f.kind = .rangeFault

theorem uvGet_error (B : List Byte) (pos : Nat) (f : Raised) (h : uvGet B pos = .error f) : DataFault f := by
  rcases uvGetFrom_error _ _ _ _ _ h with h | h <;> simp [DataFault, h]

theorem rebuildChannel_error (i j : Nat) (zs : List U64) (s : State) (f : Raised)
    (h : rebuildChannel i j zs s = .error f) : DataFault f := by
  induction zs generalizing j s with
  | nil => cases h
  | cons z zs ih =>
    unfold rebuildChannel at h
    split at h
    · simp at h; rw [← h]; simp [DataFault]
    · exact ih _ _ h

theorem parseS8_error (B : List Byte) (n : Nat) (is : List Nat) (s : State) (pos : Nat) (f : Raised)
    (h : parseS8 B n is s pos = .error f) : DataFault f := by
  induction is generalizing s pos with
  | nil => cases h
  | cons i is ih =>
    unfold parseS8 at h
    split at h
    · rename_i hh; cases h; exact .inl (s8UntilFrom_error _ _ _ _ _ hh)
    · split at h
      · rename_i hh; cases h; exact rebuildChannel_error _ _ _ _ _ hh
      · exact ih _ _ h

theorem parseVarint_error (B : List Byte) (ps : List (Nat × Nat)) (s : State) (pos : Nat) (f : Raised)
    (h : parseVarint B ps s pos = .error f) : DataFault f := by
  induction ps generalizing s pos with
  | nil => cases h
  | cons p ps ih =>
    unfold parseVarint at h
    split at h
    · rename_i hh; cases h
      unfold svGet at hh; split at hh
      · cases hh
      · rename_i h2; cases hh; exact uvGet_error _ _ _ h2
    · exact ih _ _ h

/-- The varint parser reads a field for every place, whatever it reconstructs from them (46_message_decode.md
R293). -/
theorem parseVarint_ok_iff (B : List Byte) (ps : List (Nat × Nat)) (s : State) (pos pos' : Nat) :
    (∃ t, parseVarint B ps s pos = .ok (t, pos')) ↔ fieldsEnd B ps.length pos = some pos' := by
  induction ps generalizing s pos with
  | nil => simp [parseVarint, fieldsEnd]
  | cons p ps ih =>
    simp only [parseVarint, svGet, List.length_cons, fieldsEnd]
    cases uvGet B pos with
    | error f => simp
    | ok x => exact ih _ _

theorem expandRuns_error (B : List Byte) (i n fuel cur : Nat) (s : State) (pos : Nat) (f : Raised)
    (h : expandRuns B i n fuel cur s pos = .error f) : DataFault f := by
  induction fuel generalizing cur s pos with
  | zero => cases h
  | succ fuel ih =>
    unfold expandRuns at h
    split at h
    · cases h
    · split at h
      · rename_i hh; cases h
        unfold readPair at hh
        split at hh
        · rename_i h2; cases hh; exact uvGet_error _ _ _ h2
        · split at hh
          · rename_i h2; cases hh; exact uvGet_error _ _ _ h2
          · cases hh
      · split at h
        · simp at h; rw [← h]; simp [DataFault]
        · exact ih _ _ _ h

theorem expandAll_error (B : List Byte) (n : Nat) (is : List Nat) (s : State) (pos : Nat) (f : Raised)
    (h : expandAll B n is s pos = .error f) : DataFault f := by
  induction is generalizing s pos with
  | nil => cases h
  | cons i is ih =>
    unfold expandAll at h
    split at h
    · rename_i hh; cases h; exact expandRuns_error _ _ _ _ _ _ _ _ hh
    · exact ih _ _ h

/-- The parser ends with a data fault or not at all (46_message_decode.md R291). -/
theorem parsePayload_error (B : List Byte) (n : Nat) (s : State) (f : Raised)
    (h : parsePayload B n s = .error f) : DataFault f := by
  unfold parsePayload at h
  split at h
  · rename_i hh; cases h
    unfold parseValues at hh; split at hh
    · exact parseS8_error _ _ _ _ _ _ hh
    · exact parseVarint_error _ _ _ _ _ hh
  · exact expandAll_error _ _ _ _ _ _ h

theorem DataFault.code {f : Raised} (h : DataFault f) :
    f.kind.code.toNat = 0x02 ∨ f.kind.code.toNat = 0x04 ∨ f.kind.code.toNat = 0x12 := by
  rcases h with h | h | h <;> rw [h] <;> decide

end Sys2Proof.Machine
end

