-- ==== Sys2Proof/Laws/State.lean ====
section
/-! SUPPORT. One lemma per field per update of the state, each true by `rfl`, so that no proof unfolds a
record update. -/

namespace Sys2Proof.Machine

/-! ### setXor -/

@[simp] theorem setXor_ctrlXor (x : Bool) (s : State) : (s.setXor x).ctrlXor = x := rfl
@[simp] theorem setXor_sref (x : Bool) (s : State) : (s.setXor x).sref = s.sref := rfl
@[simp] theorem setXor_estate (x : Bool) (s : State) : (s.setXor x).estate = s.estate := rfl
@[simp] theorem setXor_j (x : Bool) (s : State) : (s.setXor x).j = s.j := rfl
@[simp] theorem setXor_prev (x : Bool) (s : State) : (s.setXor x).prev = s.prev := rfl
@[simp] theorem setXor_res (x : Bool) (s : State) : (s.setXor x).res = s.res := rfl
@[simp] theorem setXor_run (x : Bool) (s : State) : (s.setXor x).run = s.run := rfl
@[simp] theorem setXor_runcnt (x : Bool) (s : State) : (s.setXor x).runcnt = s.runcnt := rfl
@[simp] theorem setXor_dsum (x : Bool) (s : State) : (s.setXor x).dsum = s.dsum := rfl
@[simp] theorem setXor_outValues (x : Bool) (s : State) : (s.setXor x).outValues = s.outValues := rfl
@[simp] theorem setXor_outQuality (x : Bool) (s : State) : (s.setXor x).outQuality = s.outQuality := rfl
@[simp] theorem setXor_outn (x : Bool) (s : State) : (s.setXor x).outn = s.outn := rfl
@[simp] theorem setXor_faults (x : Bool) (s : State) : (s.setXor x).faults = s.faults := rfl
@[simp] theorem setXor_straps (x : Bool) (s : State) : (s.setXor x).straps = s.straps := rfl
@[simp] theorem setXor_port (x : Bool) (s : State) : (s.setXor x).port = s.port := rfl
@[simp] theorem setXor_responses (x : Bool) (s : State) : (s.setXor x).responses = s.responses := rfl
@[simp] theorem setXor_outEpoch (x : Bool) (s : State) : (s.setXor x).outEpoch = s.outEpoch := rfl
@[simp] theorem setXor_memEpoch (x : Bool) (s : State) : (s.setXor x).memEpoch = s.memEpoch := rfl

/-! ### setSref -/

@[simp] theorem setSref_ctrlXor (i : Nat) (r : Word) (s : State) : (s.setSref i r).ctrlXor = s.ctrlXor := rfl
@[simp] theorem setSref_sref (i : Nat) (r : Word) (s : State) : (s.setSref i r).sref = s.sref.putOr noRef (0, i) r := rfl
@[simp] theorem setSref_estate (i : Nat) (r : Word) (s : State) : (s.setSref i r).estate = s.estate := rfl
@[simp] theorem setSref_j (i : Nat) (r : Word) (s : State) : (s.setSref i r).j = s.j := rfl
@[simp] theorem setSref_prev (i : Nat) (r : Word) (s : State) : (s.setSref i r).prev = s.prev := rfl
@[simp] theorem setSref_res (i : Nat) (r : Word) (s : State) : (s.setSref i r).res = s.res := rfl
@[simp] theorem setSref_run (i : Nat) (r : Word) (s : State) : (s.setSref i r).run = s.run := rfl
@[simp] theorem setSref_runcnt (i : Nat) (r : Word) (s : State) : (s.setSref i r).runcnt = s.runcnt := rfl
@[simp] theorem setSref_dsum (i : Nat) (r : Word) (s : State) : (s.setSref i r).dsum = s.dsum := rfl
@[simp] theorem setSref_outValues (i : Nat) (r : Word) (s : State) : (s.setSref i r).outValues = s.outValues := rfl
@[simp] theorem setSref_outQuality (i : Nat) (r : Word) (s : State) : (s.setSref i r).outQuality = s.outQuality := rfl
@[simp] theorem setSref_outn (i : Nat) (r : Word) (s : State) : (s.setSref i r).outn = s.outn := rfl
@[simp] theorem setSref_faults (i : Nat) (r : Word) (s : State) : (s.setSref i r).faults = s.faults := rfl
@[simp] theorem setSref_straps (i : Nat) (r : Word) (s : State) : (s.setSref i r).straps = s.straps := rfl
@[simp] theorem setSref_port (i : Nat) (r : Word) (s : State) : (s.setSref i r).port = s.port := rfl
@[simp] theorem setSref_responses (i : Nat) (r : Word) (s : State) : (s.setSref i r).responses = s.responses := rfl
@[simp] theorem setSref_outEpoch (i : Nat) (r : Word) (s : State) : (s.setSref i r).outEpoch = s.outEpoch := rfl
@[simp] theorem setSref_memEpoch (i : Nat) (r : Word) (s : State) : (s.setSref i r).memEpoch = s.memEpoch := rfl

/-! ### setEstate -/

@[simp] theorem setEstate_ctrlXor (e : EState) (s : State) : (s.setEstate e).ctrlXor = s.ctrlXor := rfl
@[simp] theorem setEstate_sref (e : EState) (s : State) : (s.setEstate e).sref = s.sref := rfl
@[simp] theorem setEstate_estate (e : EState) (s : State) : (s.setEstate e).estate = e := rfl
@[simp] theorem setEstate_j (e : EState) (s : State) : (s.setEstate e).j = s.j := rfl
@[simp] theorem setEstate_prev (e : EState) (s : State) : (s.setEstate e).prev = s.prev := rfl
@[simp] theorem setEstate_res (e : EState) (s : State) : (s.setEstate e).res = s.res := rfl
@[simp] theorem setEstate_run (e : EState) (s : State) : (s.setEstate e).run = s.run := rfl
@[simp] theorem setEstate_runcnt (e : EState) (s : State) : (s.setEstate e).runcnt = s.runcnt := rfl
@[simp] theorem setEstate_dsum (e : EState) (s : State) : (s.setEstate e).dsum = s.dsum := rfl
@[simp] theorem setEstate_outValues (e : EState) (s : State) : (s.setEstate e).outValues = s.outValues := rfl
@[simp] theorem setEstate_outQuality (e : EState) (s : State) : (s.setEstate e).outQuality = s.outQuality := rfl
@[simp] theorem setEstate_outn (e : EState) (s : State) : (s.setEstate e).outn = s.outn := rfl
@[simp] theorem setEstate_faults (e : EState) (s : State) : (s.setEstate e).faults = s.faults := rfl
@[simp] theorem setEstate_straps (e : EState) (s : State) : (s.setEstate e).straps = s.straps := rfl
@[simp] theorem setEstate_port (e : EState) (s : State) : (s.setEstate e).port = s.port := rfl
@[simp] theorem setEstate_responses (e : EState) (s : State) : (s.setEstate e).responses = s.responses := rfl
@[simp] theorem setEstate_outEpoch (e : EState) (s : State) : (s.setEstate e).outEpoch = s.outEpoch := rfl
@[simp] theorem setEstate_memEpoch (e : EState) (s : State) : (s.setEstate e).memEpoch = s.memEpoch := rfl

/-! ### setJ -/

@[simp] theorem setJ_ctrlXor (n : Nat) (s : State) : (s.setJ n).ctrlXor = s.ctrlXor := rfl
@[simp] theorem setJ_sref (n : Nat) (s : State) : (s.setJ n).sref = s.sref := rfl
@[simp] theorem setJ_estate (n : Nat) (s : State) : (s.setJ n).estate = s.estate := rfl
@[simp] theorem setJ_j (n : Nat) (s : State) : (s.setJ n).j = n := rfl
@[simp] theorem setJ_prev (n : Nat) (s : State) : (s.setJ n).prev = s.prev := rfl
@[simp] theorem setJ_res (n : Nat) (s : State) : (s.setJ n).res = s.res := rfl
@[simp] theorem setJ_run (n : Nat) (s : State) : (s.setJ n).run = s.run := rfl
@[simp] theorem setJ_runcnt (n : Nat) (s : State) : (s.setJ n).runcnt = s.runcnt := rfl
@[simp] theorem setJ_dsum (n : Nat) (s : State) : (s.setJ n).dsum = s.dsum := rfl
@[simp] theorem setJ_outValues (n : Nat) (s : State) : (s.setJ n).outValues = s.outValues := rfl
@[simp] theorem setJ_outQuality (n : Nat) (s : State) : (s.setJ n).outQuality = s.outQuality := rfl
@[simp] theorem setJ_outn (n : Nat) (s : State) : (s.setJ n).outn = s.outn := rfl
@[simp] theorem setJ_faults (n : Nat) (s : State) : (s.setJ n).faults = s.faults := rfl
@[simp] theorem setJ_straps (n : Nat) (s : State) : (s.setJ n).straps = s.straps := rfl
@[simp] theorem setJ_port (n : Nat) (s : State) : (s.setJ n).port = s.port := rfl
@[simp] theorem setJ_responses (n : Nat) (s : State) : (s.setJ n).responses = s.responses := rfl
@[simp] theorem setJ_outEpoch (n : Nat) (s : State) : (s.setJ n).outEpoch = s.outEpoch := rfl
@[simp] theorem setJ_memEpoch (n : Nat) (s : State) : (s.setJ n).memEpoch = s.memEpoch := rfl

/-! ### setPrev -/

@[simp] theorem setPrev_ctrlXor (k i : Nat) (v : Word) (s : State) : (s.setPrev k i v).ctrlXor = s.ctrlXor := rfl
@[simp] theorem setPrev_sref (k i : Nat) (v : Word) (s : State) : (s.setPrev k i v).sref = s.sref := rfl
@[simp] theorem setPrev_estate (k i : Nat) (v : Word) (s : State) : (s.setPrev k i v).estate = s.estate := rfl
@[simp] theorem setPrev_j (k i : Nat) (v : Word) (s : State) : (s.setPrev k i v).j = s.j := rfl
@[simp] theorem setPrev_prev (k i : Nat) (v : Word) (s : State) : (s.setPrev k i v).prev = s.prev.putOr 0 (k, i) v := rfl
@[simp] theorem setPrev_res (k i : Nat) (v : Word) (s : State) : (s.setPrev k i v).res = s.res := rfl
@[simp] theorem setPrev_run (k i : Nat) (v : Word) (s : State) : (s.setPrev k i v).run = s.run := rfl
@[simp] theorem setPrev_runcnt (k i : Nat) (v : Word) (s : State) : (s.setPrev k i v).runcnt = s.runcnt := rfl
@[simp] theorem setPrev_dsum (k i : Nat) (v : Word) (s : State) : (s.setPrev k i v).dsum = s.dsum := rfl
@[simp] theorem setPrev_outValues (k i : Nat) (v : Word) (s : State) : (s.setPrev k i v).outValues = s.outValues := rfl
@[simp] theorem setPrev_outQuality (k i : Nat) (v : Word) (s : State) : (s.setPrev k i v).outQuality = s.outQuality := rfl
@[simp] theorem setPrev_outn (k i : Nat) (v : Word) (s : State) : (s.setPrev k i v).outn = s.outn := rfl
@[simp] theorem setPrev_faults (k i : Nat) (v : Word) (s : State) : (s.setPrev k i v).faults = s.faults := rfl
@[simp] theorem setPrev_straps (k i : Nat) (v : Word) (s : State) : (s.setPrev k i v).straps = s.straps := rfl
@[simp] theorem setPrev_port (k i : Nat) (v : Word) (s : State) : (s.setPrev k i v).port = s.port := rfl
@[simp] theorem setPrev_responses (k i : Nat) (v : Word) (s : State) : (s.setPrev k i v).responses = s.responses := rfl
@[simp] theorem setPrev_outEpoch (k i : Nat) (v : Word) (s : State) : (s.setPrev k i v).outEpoch = s.outEpoch := rfl
@[simp] theorem setPrev_memEpoch (k i : Nat) (v : Word) (s : State) : (s.setPrev k i v).memEpoch = s.memEpoch := rfl

/-! ### setRes -/

@[simp] theorem setRes_ctrlXor (i j : Nat) (v : Word) (s : State) : (s.setRes i j v).ctrlXor = s.ctrlXor := rfl
@[simp] theorem setRes_sref (i j : Nat) (v : Word) (s : State) : (s.setRes i j v).sref = s.sref := rfl
@[simp] theorem setRes_estate (i j : Nat) (v : Word) (s : State) : (s.setRes i j v).estate = s.estate := rfl
@[simp] theorem setRes_j (i j : Nat) (v : Word) (s : State) : (s.setRes i j v).j = s.j := rfl
@[simp] theorem setRes_prev (i j : Nat) (v : Word) (s : State) : (s.setRes i j v).prev = s.prev := rfl
@[simp] theorem setRes_res (i j : Nat) (v : Word) (s : State) : (s.setRes i j v).res = s.res.put (i, j) v := rfl
@[simp] theorem setRes_run (i j : Nat) (v : Word) (s : State) : (s.setRes i j v).run = s.run := rfl
@[simp] theorem setRes_runcnt (i j : Nat) (v : Word) (s : State) : (s.setRes i j v).runcnt = s.runcnt := rfl
@[simp] theorem setRes_dsum (i j : Nat) (v : Word) (s : State) : (s.setRes i j v).dsum = s.dsum := rfl
@[simp] theorem setRes_outValues (i j : Nat) (v : Word) (s : State) : (s.setRes i j v).outValues = s.outValues := rfl
@[simp] theorem setRes_outQuality (i j : Nat) (v : Word) (s : State) : (s.setRes i j v).outQuality = s.outQuality := rfl
@[simp] theorem setRes_outn (i j : Nat) (v : Word) (s : State) : (s.setRes i j v).outn = s.outn := rfl
@[simp] theorem setRes_faults (i j : Nat) (v : Word) (s : State) : (s.setRes i j v).faults = s.faults := rfl
@[simp] theorem setRes_straps (i j : Nat) (v : Word) (s : State) : (s.setRes i j v).straps = s.straps := rfl
@[simp] theorem setRes_port (i j : Nat) (v : Word) (s : State) : (s.setRes i j v).port = s.port := rfl
@[simp] theorem setRes_responses (i j : Nat) (v : Word) (s : State) : (s.setRes i j v).responses = s.responses := rfl
@[simp] theorem setRes_outEpoch (i j : Nat) (v : Word) (s : State) : (s.setRes i j v).outEpoch = s.outEpoch := rfl
@[simp] theorem setRes_memEpoch (i j : Nat) (v : Word) (s : State) : (s.setRes i j v).memEpoch = s.memEpoch := rfl

/-! ### setRun -/

@[simp] theorem setRun_ctrlXor (i r : Nat) (x : Run) (s : State) : (s.setRun i r x).ctrlXor = s.ctrlXor := rfl
@[simp] theorem setRun_sref (i r : Nat) (x : Run) (s : State) : (s.setRun i r x).sref = s.sref := rfl
@[simp] theorem setRun_estate (i r : Nat) (x : Run) (s : State) : (s.setRun i r x).estate = s.estate := rfl
@[simp] theorem setRun_j (i r : Nat) (x : Run) (s : State) : (s.setRun i r x).j = s.j := rfl
@[simp] theorem setRun_prev (i r : Nat) (x : Run) (s : State) : (s.setRun i r x).prev = s.prev := rfl
@[simp] theorem setRun_res (i r : Nat) (x : Run) (s : State) : (s.setRun i r x).res = s.res := rfl
@[simp] theorem setRun_run (i r : Nat) (x : Run) (s : State) : (s.setRun i r x).run = s.run.put (i, r) x := rfl
@[simp] theorem setRun_runcnt (i r : Nat) (x : Run) (s : State) : (s.setRun i r x).runcnt = s.runcnt := rfl
@[simp] theorem setRun_dsum (i r : Nat) (x : Run) (s : State) : (s.setRun i r x).dsum = s.dsum := rfl
@[simp] theorem setRun_outValues (i r : Nat) (x : Run) (s : State) : (s.setRun i r x).outValues = s.outValues := rfl
@[simp] theorem setRun_outQuality (i r : Nat) (x : Run) (s : State) : (s.setRun i r x).outQuality = s.outQuality := rfl
@[simp] theorem setRun_outn (i r : Nat) (x : Run) (s : State) : (s.setRun i r x).outn = s.outn := rfl
@[simp] theorem setRun_faults (i r : Nat) (x : Run) (s : State) : (s.setRun i r x).faults = s.faults := rfl
@[simp] theorem setRun_straps (i r : Nat) (x : Run) (s : State) : (s.setRun i r x).straps = s.straps := rfl
@[simp] theorem setRun_port (i r : Nat) (x : Run) (s : State) : (s.setRun i r x).port = s.port := rfl
@[simp] theorem setRun_responses (i r : Nat) (x : Run) (s : State) : (s.setRun i r x).responses = s.responses := rfl
@[simp] theorem setRun_outEpoch (i r : Nat) (x : Run) (s : State) : (s.setRun i r x).outEpoch = s.outEpoch := rfl
@[simp] theorem setRun_memEpoch (i r : Nat) (x : Run) (s : State) : (s.setRun i r x).memEpoch = s.memEpoch := rfl

/-! ### setRuncnt -/

@[simp] theorem setRuncnt_ctrlXor (i n : Nat) (s : State) : (s.setRuncnt i n).ctrlXor = s.ctrlXor := rfl
@[simp] theorem setRuncnt_sref (i n : Nat) (s : State) : (s.setRuncnt i n).sref = s.sref := rfl
@[simp] theorem setRuncnt_estate (i n : Nat) (s : State) : (s.setRuncnt i n).estate = s.estate := rfl
@[simp] theorem setRuncnt_j (i n : Nat) (s : State) : (s.setRuncnt i n).j = s.j := rfl
@[simp] theorem setRuncnt_prev (i n : Nat) (s : State) : (s.setRuncnt i n).prev = s.prev := rfl
@[simp] theorem setRuncnt_res (i n : Nat) (s : State) : (s.setRuncnt i n).res = s.res := rfl
@[simp] theorem setRuncnt_run (i n : Nat) (s : State) : (s.setRuncnt i n).run = s.run := rfl
@[simp] theorem setRuncnt_runcnt (i n : Nat) (s : State) : (s.setRuncnt i n).runcnt = s.runcnt.putOr 0 (0, i) n := rfl
@[simp] theorem setRuncnt_dsum (i n : Nat) (s : State) : (s.setRuncnt i n).dsum = s.dsum := rfl
@[simp] theorem setRuncnt_outValues (i n : Nat) (s : State) : (s.setRuncnt i n).outValues = s.outValues := rfl
@[simp] theorem setRuncnt_outQuality (i n : Nat) (s : State) : (s.setRuncnt i n).outQuality = s.outQuality := rfl
@[simp] theorem setRuncnt_outn (i n : Nat) (s : State) : (s.setRuncnt i n).outn = s.outn := rfl
@[simp] theorem setRuncnt_faults (i n : Nat) (s : State) : (s.setRuncnt i n).faults = s.faults := rfl
@[simp] theorem setRuncnt_straps (i n : Nat) (s : State) : (s.setRuncnt i n).straps = s.straps := rfl
@[simp] theorem setRuncnt_port (i n : Nat) (s : State) : (s.setRuncnt i n).port = s.port := rfl
@[simp] theorem setRuncnt_responses (i n : Nat) (s : State) : (s.setRuncnt i n).responses = s.responses := rfl
@[simp] theorem setRuncnt_outEpoch (i n : Nat) (s : State) : (s.setRuncnt i n).outEpoch = s.outEpoch := rfl
@[simp] theorem setRuncnt_memEpoch (i n : Nat) (s : State) : (s.setRuncnt i n).memEpoch = s.memEpoch := rfl

/-! ### setDsum -/

@[simp] theorem setDsum_ctrlXor (k i : Nat) (v : Word) (s : State) : (s.setDsum k i v).ctrlXor = s.ctrlXor := rfl
@[simp] theorem setDsum_sref (k i : Nat) (v : Word) (s : State) : (s.setDsum k i v).sref = s.sref := rfl
@[simp] theorem setDsum_estate (k i : Nat) (v : Word) (s : State) : (s.setDsum k i v).estate = s.estate := rfl
@[simp] theorem setDsum_j (k i : Nat) (v : Word) (s : State) : (s.setDsum k i v).j = s.j := rfl
@[simp] theorem setDsum_prev (k i : Nat) (v : Word) (s : State) : (s.setDsum k i v).prev = s.prev := rfl
@[simp] theorem setDsum_res (k i : Nat) (v : Word) (s : State) : (s.setDsum k i v).res = s.res := rfl
@[simp] theorem setDsum_run (k i : Nat) (v : Word) (s : State) : (s.setDsum k i v).run = s.run := rfl
@[simp] theorem setDsum_runcnt (k i : Nat) (v : Word) (s : State) : (s.setDsum k i v).runcnt = s.runcnt := rfl
@[simp] theorem setDsum_dsum (k i : Nat) (v : Word) (s : State) : (s.setDsum k i v).dsum = s.dsum.putOr 0 (k, i) v := rfl
@[simp] theorem setDsum_outValues (k i : Nat) (v : Word) (s : State) : (s.setDsum k i v).outValues = s.outValues := rfl
@[simp] theorem setDsum_outQuality (k i : Nat) (v : Word) (s : State) : (s.setDsum k i v).outQuality = s.outQuality := rfl
@[simp] theorem setDsum_outn (k i : Nat) (v : Word) (s : State) : (s.setDsum k i v).outn = s.outn := rfl
@[simp] theorem setDsum_faults (k i : Nat) (v : Word) (s : State) : (s.setDsum k i v).faults = s.faults := rfl
@[simp] theorem setDsum_straps (k i : Nat) (v : Word) (s : State) : (s.setDsum k i v).straps = s.straps := rfl
@[simp] theorem setDsum_port (k i : Nat) (v : Word) (s : State) : (s.setDsum k i v).port = s.port := rfl
@[simp] theorem setDsum_responses (k i : Nat) (v : Word) (s : State) : (s.setDsum k i v).responses = s.responses := rfl
@[simp] theorem setDsum_outEpoch (k i : Nat) (v : Word) (s : State) : (s.setDsum k i v).outEpoch = s.outEpoch := rfl
@[simp] theorem setDsum_memEpoch (k i : Nat) (v : Word) (s : State) : (s.setDsum k i v).memEpoch = s.memEpoch := rfl

/-! ### setOutValue -/

@[simp] theorem setOutValue_ctrlXor (j i : Nat) (v : Word) (s : State) : (s.setOutValue j i v).ctrlXor = s.ctrlXor := rfl
@[simp] theorem setOutValue_sref (j i : Nat) (v : Word) (s : State) : (s.setOutValue j i v).sref = s.sref := rfl
@[simp] theorem setOutValue_estate (j i : Nat) (v : Word) (s : State) : (s.setOutValue j i v).estate = s.estate := rfl
@[simp] theorem setOutValue_j (j i : Nat) (v : Word) (s : State) : (s.setOutValue j i v).j = s.j := rfl
@[simp] theorem setOutValue_prev (j i : Nat) (v : Word) (s : State) : (s.setOutValue j i v).prev = s.prev := rfl
@[simp] theorem setOutValue_res (j i : Nat) (v : Word) (s : State) : (s.setOutValue j i v).res = s.res := rfl
@[simp] theorem setOutValue_run (j i : Nat) (v : Word) (s : State) : (s.setOutValue j i v).run = s.run := rfl
@[simp] theorem setOutValue_runcnt (j i : Nat) (v : Word) (s : State) : (s.setOutValue j i v).runcnt = s.runcnt := rfl
@[simp] theorem setOutValue_dsum (j i : Nat) (v : Word) (s : State) : (s.setOutValue j i v).dsum = s.dsum := rfl
@[simp] theorem setOutValue_outValues (j i : Nat) (v : Word) (s : State) : (s.setOutValue j i v).outValues = s.outValues.put (j, i) v := rfl
@[simp] theorem setOutValue_outQuality (j i : Nat) (v : Word) (s : State) : (s.setOutValue j i v).outQuality = s.outQuality := rfl
@[simp] theorem setOutValue_outn (j i : Nat) (v : Word) (s : State) : (s.setOutValue j i v).outn = s.outn := rfl
@[simp] theorem setOutValue_faults (j i : Nat) (v : Word) (s : State) : (s.setOutValue j i v).faults = s.faults := rfl
@[simp] theorem setOutValue_straps (j i : Nat) (v : Word) (s : State) : (s.setOutValue j i v).straps = s.straps := rfl
@[simp] theorem setOutValue_port (j i : Nat) (v : Word) (s : State) : (s.setOutValue j i v).port = s.port := rfl
@[simp] theorem setOutValue_responses (j i : Nat) (v : Word) (s : State) : (s.setOutValue j i v).responses = s.responses := rfl
@[simp] theorem setOutValue_outEpoch (j i : Nat) (v : Word) (s : State) : (s.setOutValue j i v).outEpoch = s.outEpoch := rfl
@[simp] theorem setOutValue_memEpoch (j i : Nat) (v : Word) (s : State) : (s.setOutValue j i v).memEpoch = s.memEpoch := rfl

/-! ### setOutQuality -/

@[simp] theorem setOutQuality_ctrlXor (j i : Nat) (q : Word) (s : State) : (s.setOutQuality j i q).ctrlXor = s.ctrlXor := rfl
@[simp] theorem setOutQuality_sref (j i : Nat) (q : Word) (s : State) : (s.setOutQuality j i q).sref = s.sref := rfl
@[simp] theorem setOutQuality_estate (j i : Nat) (q : Word) (s : State) : (s.setOutQuality j i q).estate = s.estate := rfl
@[simp] theorem setOutQuality_j (j i : Nat) (q : Word) (s : State) : (s.setOutQuality j i q).j = s.j := rfl
@[simp] theorem setOutQuality_prev (j i : Nat) (q : Word) (s : State) : (s.setOutQuality j i q).prev = s.prev := rfl
@[simp] theorem setOutQuality_res (j i : Nat) (q : Word) (s : State) : (s.setOutQuality j i q).res = s.res := rfl
@[simp] theorem setOutQuality_run (j i : Nat) (q : Word) (s : State) : (s.setOutQuality j i q).run = s.run := rfl
@[simp] theorem setOutQuality_runcnt (j i : Nat) (q : Word) (s : State) : (s.setOutQuality j i q).runcnt = s.runcnt := rfl
@[simp] theorem setOutQuality_dsum (j i : Nat) (q : Word) (s : State) : (s.setOutQuality j i q).dsum = s.dsum := rfl
@[simp] theorem setOutQuality_outValues (j i : Nat) (q : Word) (s : State) : (s.setOutQuality j i q).outValues = s.outValues := rfl
@[simp] theorem setOutQuality_outQuality (j i : Nat) (q : Word) (s : State) : (s.setOutQuality j i q).outQuality = s.outQuality.put (j, i) q := rfl
@[simp] theorem setOutQuality_outn (j i : Nat) (q : Word) (s : State) : (s.setOutQuality j i q).outn = s.outn := rfl
@[simp] theorem setOutQuality_faults (j i : Nat) (q : Word) (s : State) : (s.setOutQuality j i q).faults = s.faults := rfl
@[simp] theorem setOutQuality_straps (j i : Nat) (q : Word) (s : State) : (s.setOutQuality j i q).straps = s.straps := rfl
@[simp] theorem setOutQuality_port (j i : Nat) (q : Word) (s : State) : (s.setOutQuality j i q).port = s.port := rfl
@[simp] theorem setOutQuality_responses (j i : Nat) (q : Word) (s : State) : (s.setOutQuality j i q).responses = s.responses := rfl
@[simp] theorem setOutQuality_outEpoch (j i : Nat) (q : Word) (s : State) : (s.setOutQuality j i q).outEpoch = s.outEpoch := rfl
@[simp] theorem setOutQuality_memEpoch (j i : Nat) (q : Word) (s : State) : (s.setOutQuality j i q).memEpoch = s.memEpoch := rfl

/-! ### setOutn -/

@[simp] theorem setOutn_ctrlXor (n : Nat) (s : State) : (s.setOutn n).ctrlXor = s.ctrlXor := rfl
@[simp] theorem setOutn_sref (n : Nat) (s : State) : (s.setOutn n).sref = s.sref := rfl
@[simp] theorem setOutn_estate (n : Nat) (s : State) : (s.setOutn n).estate = s.estate := rfl
@[simp] theorem setOutn_j (n : Nat) (s : State) : (s.setOutn n).j = s.j := rfl
@[simp] theorem setOutn_prev (n : Nat) (s : State) : (s.setOutn n).prev = s.prev := rfl
@[simp] theorem setOutn_res (n : Nat) (s : State) : (s.setOutn n).res = s.res := rfl
@[simp] theorem setOutn_run (n : Nat) (s : State) : (s.setOutn n).run = s.run := rfl
@[simp] theorem setOutn_runcnt (n : Nat) (s : State) : (s.setOutn n).runcnt = s.runcnt := rfl
@[simp] theorem setOutn_dsum (n : Nat) (s : State) : (s.setOutn n).dsum = s.dsum := rfl
@[simp] theorem setOutn_outValues (n : Nat) (s : State) : (s.setOutn n).outValues = s.outValues := rfl
@[simp] theorem setOutn_outQuality (n : Nat) (s : State) : (s.setOutn n).outQuality = s.outQuality := rfl
@[simp] theorem setOutn_outn (n : Nat) (s : State) : (s.setOutn n).outn = n := rfl
@[simp] theorem setOutn_faults (n : Nat) (s : State) : (s.setOutn n).faults = s.faults := rfl
@[simp] theorem setOutn_straps (n : Nat) (s : State) : (s.setOutn n).straps = s.straps := rfl
@[simp] theorem setOutn_port (n : Nat) (s : State) : (s.setOutn n).port = s.port := rfl
@[simp] theorem setOutn_responses (n : Nat) (s : State) : (s.setOutn n).responses = s.responses := rfl
@[simp] theorem setOutn_outEpoch (n : Nat) (s : State) : (s.setOutn n).outEpoch = s.outEpoch := rfl
@[simp] theorem setOutn_memEpoch (n : Nat) (s : State) : (s.setOutn n).memEpoch = s.memEpoch := rfl

/-! ### clearPrev -/

@[simp] theorem clearPrev_ctrlXor (s : State) : (s.clearPrev).ctrlXor = s.ctrlXor := rfl
@[simp] theorem clearPrev_sref (s : State) : (s.clearPrev).sref = s.sref := rfl
@[simp] theorem clearPrev_estate (s : State) : (s.clearPrev).estate = s.estate := rfl
@[simp] theorem clearPrev_j (s : State) : (s.clearPrev).j = s.j := rfl
@[simp] theorem clearPrev_prev (s : State) : (s.clearPrev).prev = [] := rfl
@[simp] theorem clearPrev_res (s : State) : (s.clearPrev).res = s.res := rfl
@[simp] theorem clearPrev_run (s : State) : (s.clearPrev).run = s.run := rfl
@[simp] theorem clearPrev_runcnt (s : State) : (s.clearPrev).runcnt = s.runcnt := rfl
@[simp] theorem clearPrev_dsum (s : State) : (s.clearPrev).dsum = s.dsum := rfl
@[simp] theorem clearPrev_outValues (s : State) : (s.clearPrev).outValues = s.outValues := rfl
@[simp] theorem clearPrev_outQuality (s : State) : (s.clearPrev).outQuality = s.outQuality := rfl
@[simp] theorem clearPrev_outn (s : State) : (s.clearPrev).outn = s.outn := rfl
@[simp] theorem clearPrev_faults (s : State) : (s.clearPrev).faults = s.faults := rfl
@[simp] theorem clearPrev_straps (s : State) : (s.clearPrev).straps = s.straps := rfl
@[simp] theorem clearPrev_port (s : State) : (s.clearPrev).port = s.port := rfl
@[simp] theorem clearPrev_responses (s : State) : (s.clearPrev).responses = s.responses := rfl
@[simp] theorem clearPrev_outEpoch (s : State) : (s.clearPrev).outEpoch = s.outEpoch := rfl
@[simp] theorem clearPrev_memEpoch (s : State) : (s.clearPrev).memEpoch = s.memEpoch := rfl

/-! ### clearRuncnt -/

@[simp] theorem clearRuncnt_ctrlXor (s : State) : (s.clearRuncnt).ctrlXor = s.ctrlXor := rfl
@[simp] theorem clearRuncnt_sref (s : State) : (s.clearRuncnt).sref = s.sref := rfl
@[simp] theorem clearRuncnt_estate (s : State) : (s.clearRuncnt).estate = s.estate := rfl
@[simp] theorem clearRuncnt_j (s : State) : (s.clearRuncnt).j = s.j := rfl
@[simp] theorem clearRuncnt_prev (s : State) : (s.clearRuncnt).prev = s.prev := rfl
@[simp] theorem clearRuncnt_res (s : State) : (s.clearRuncnt).res = s.res := rfl
@[simp] theorem clearRuncnt_run (s : State) : (s.clearRuncnt).run = s.run := rfl
@[simp] theorem clearRuncnt_runcnt (s : State) : (s.clearRuncnt).runcnt = [] := rfl
@[simp] theorem clearRuncnt_dsum (s : State) : (s.clearRuncnt).dsum = s.dsum := rfl
@[simp] theorem clearRuncnt_outValues (s : State) : (s.clearRuncnt).outValues = s.outValues := rfl
@[simp] theorem clearRuncnt_outQuality (s : State) : (s.clearRuncnt).outQuality = s.outQuality := rfl
@[simp] theorem clearRuncnt_outn (s : State) : (s.clearRuncnt).outn = s.outn := rfl
@[simp] theorem clearRuncnt_faults (s : State) : (s.clearRuncnt).faults = s.faults := rfl
@[simp] theorem clearRuncnt_straps (s : State) : (s.clearRuncnt).straps = s.straps := rfl
@[simp] theorem clearRuncnt_port (s : State) : (s.clearRuncnt).port = s.port := rfl
@[simp] theorem clearRuncnt_responses (s : State) : (s.clearRuncnt).responses = s.responses := rfl
@[simp] theorem clearRuncnt_outEpoch (s : State) : (s.clearRuncnt).outEpoch = s.outEpoch := rfl
@[simp] theorem clearRuncnt_memEpoch (s : State) : (s.clearRuncnt).memEpoch = s.memEpoch := rfl

/-! ### clearDsum -/

@[simp] theorem clearDsum_ctrlXor (s : State) : (s.clearDsum).ctrlXor = s.ctrlXor := rfl
@[simp] theorem clearDsum_sref (s : State) : (s.clearDsum).sref = s.sref := rfl
@[simp] theorem clearDsum_estate (s : State) : (s.clearDsum).estate = s.estate := rfl
@[simp] theorem clearDsum_j (s : State) : (s.clearDsum).j = s.j := rfl
@[simp] theorem clearDsum_prev (s : State) : (s.clearDsum).prev = s.prev := rfl
@[simp] theorem clearDsum_res (s : State) : (s.clearDsum).res = s.res := rfl
@[simp] theorem clearDsum_run (s : State) : (s.clearDsum).run = s.run := rfl
@[simp] theorem clearDsum_runcnt (s : State) : (s.clearDsum).runcnt = s.runcnt := rfl
@[simp] theorem clearDsum_dsum (s : State) : (s.clearDsum).dsum = [] := rfl
@[simp] theorem clearDsum_outValues (s : State) : (s.clearDsum).outValues = s.outValues := rfl
@[simp] theorem clearDsum_outQuality (s : State) : (s.clearDsum).outQuality = s.outQuality := rfl
@[simp] theorem clearDsum_outn (s : State) : (s.clearDsum).outn = s.outn := rfl
@[simp] theorem clearDsum_faults (s : State) : (s.clearDsum).faults = s.faults := rfl
@[simp] theorem clearDsum_straps (s : State) : (s.clearDsum).straps = s.straps := rfl
@[simp] theorem clearDsum_port (s : State) : (s.clearDsum).port = s.port := rfl
@[simp] theorem clearDsum_responses (s : State) : (s.clearDsum).responses = s.responses := rfl
@[simp] theorem clearDsum_outEpoch (s : State) : (s.clearDsum).outEpoch = s.outEpoch := rfl
@[simp] theorem clearDsum_memEpoch (s : State) : (s.clearDsum).memEpoch = s.memEpoch := rfl

/-! ### forgetOut -/

@[simp] theorem forgetOut_ctrlXor (s : State) : (s.forgetOut).ctrlXor = s.ctrlXor := rfl
@[simp] theorem forgetOut_sref (s : State) : (s.forgetOut).sref = s.sref := rfl
@[simp] theorem forgetOut_estate (s : State) : (s.forgetOut).estate = s.estate := rfl
@[simp] theorem forgetOut_j (s : State) : (s.forgetOut).j = s.j := rfl
@[simp] theorem forgetOut_prev (s : State) : (s.forgetOut).prev = s.prev := rfl
@[simp] theorem forgetOut_res (s : State) : (s.forgetOut).res = s.res := rfl
@[simp] theorem forgetOut_run (s : State) : (s.forgetOut).run = s.run := rfl
@[simp] theorem forgetOut_runcnt (s : State) : (s.forgetOut).runcnt = s.runcnt := rfl
@[simp] theorem forgetOut_dsum (s : State) : (s.forgetOut).dsum = s.dsum := rfl
@[simp] theorem forgetOut_outValues (s : State) : (s.forgetOut).outValues = [] := rfl
@[simp] theorem forgetOut_outQuality (s : State) : (s.forgetOut).outQuality = [] := rfl
@[simp] theorem forgetOut_outn (s : State) : (s.forgetOut).outn = s.outn := rfl
@[simp] theorem forgetOut_faults (s : State) : (s.forgetOut).faults = s.faults := rfl
@[simp] theorem forgetOut_straps (s : State) : (s.forgetOut).straps = s.straps := rfl
@[simp] theorem forgetOut_port (s : State) : (s.forgetOut).port = s.port := rfl
@[simp] theorem forgetOut_responses (s : State) : (s.forgetOut).responses = s.responses := rfl
@[simp] theorem forgetOut_outEpoch (s : State) : (s.forgetOut).outEpoch = s.outEpoch + 1 := rfl
@[simp] theorem forgetOut_memEpoch (s : State) : (s.forgetOut).memEpoch = s.memEpoch := rfl

/-! ### respond -/

@[simp] theorem respond_ctrlXor (payload : List Word) (s : State) : (respond payload s).ctrlXor = s.ctrlXor := rfl
@[simp] theorem respond_sref (payload : List Word) (s : State) : (respond payload s).sref = s.sref := rfl
@[simp] theorem respond_estate (payload : List Word) (s : State) : (respond payload s).estate = s.estate := rfl
@[simp] theorem respond_j (payload : List Word) (s : State) : (respond payload s).j = s.j := rfl
@[simp] theorem respond_prev (payload : List Word) (s : State) : (respond payload s).prev = s.prev := rfl
@[simp] theorem respond_res (payload : List Word) (s : State) : (respond payload s).res = s.res := rfl
@[simp] theorem respond_run (payload : List Word) (s : State) : (respond payload s).run = s.run := rfl
@[simp] theorem respond_runcnt (payload : List Word) (s : State) : (respond payload s).runcnt = s.runcnt := rfl
@[simp] theorem respond_dsum (payload : List Word) (s : State) : (respond payload s).dsum = s.dsum := rfl
@[simp] theorem respond_outValues (payload : List Word) (s : State) : (respond payload s).outValues = s.outValues := rfl
@[simp] theorem respond_outQuality (payload : List Word) (s : State) : (respond payload s).outQuality = s.outQuality := rfl
@[simp] theorem respond_outn (payload : List Word) (s : State) : (respond payload s).outn = s.outn := rfl
@[simp] theorem respond_faults (payload : List Word) (s : State) : (respond payload s).faults = s.faults := rfl
@[simp] theorem respond_straps (payload : List Word) (s : State) : (respond payload s).straps = s.straps := rfl
@[simp] theorem respond_port (payload : List Word) (s : State) : (respond payload s).port = s.port := rfl
@[simp] theorem respond_responses (payload : List Word) (s : State) : (respond payload s).responses = s.responses ++ [responsePacket 0x00#8 payload] := rfl
@[simp] theorem respond_outEpoch (payload : List Word) (s : State) : (respond payload s).outEpoch = s.outEpoch := rfl
@[simp] theorem respond_memEpoch (payload : List Word) (s : State) : (respond payload s).memEpoch = s.memEpoch := rfl

/-! ### raiseFault -/

@[simp] theorem raiseFault_ctrlXor (f : FaultKind) (info : Word) (s : State) : (raiseFault f info s).ctrlXor = s.ctrlXor := rfl
@[simp] theorem raiseFault_sref (f : FaultKind) (info : Word) (s : State) : (raiseFault f info s).sref = s.sref := rfl
@[simp] theorem raiseFault_estate (f : FaultKind) (info : Word) (s : State) : (raiseFault f info s).estate = s.estate := rfl
@[simp] theorem raiseFault_j (f : FaultKind) (info : Word) (s : State) : (raiseFault f info s).j = s.j := rfl
@[simp] theorem raiseFault_prev (f : FaultKind) (info : Word) (s : State) : (raiseFault f info s).prev = s.prev := rfl
@[simp] theorem raiseFault_res (f : FaultKind) (info : Word) (s : State) : (raiseFault f info s).res = s.res := rfl
@[simp] theorem raiseFault_run (f : FaultKind) (info : Word) (s : State) : (raiseFault f info s).run = s.run := rfl
@[simp] theorem raiseFault_runcnt (f : FaultKind) (info : Word) (s : State) : (raiseFault f info s).runcnt = s.runcnt := rfl
@[simp] theorem raiseFault_dsum (f : FaultKind) (info : Word) (s : State) : (raiseFault f info s).dsum = s.dsum := rfl
@[simp] theorem raiseFault_outValues (f : FaultKind) (info : Word) (s : State) : (raiseFault f info s).outValues = s.outValues := rfl
@[simp] theorem raiseFault_outQuality (f : FaultKind) (info : Word) (s : State) : (raiseFault f info s).outQuality = s.outQuality := rfl
@[simp] theorem raiseFault_outn (f : FaultKind) (info : Word) (s : State) : (raiseFault f info s).outn = s.outn := rfl
@[simp] theorem raiseFault_faults (f : FaultKind) (info : Word) (s : State) : (raiseFault f info s).faults = stickyFaults s.faults f := rfl
@[simp] theorem raiseFault_straps (f : FaultKind) (info : Word) (s : State) : (raiseFault f info s).straps = s.straps := rfl
@[simp] theorem raiseFault_port (f : FaultKind) (info : Word) (s : State) : (raiseFault f info s).port = s.port := rfl
@[simp] theorem raiseFault_responses (f : FaultKind) (info : Word) (s : State) : (raiseFault f info s).responses = s.responses ++ [responsePacket f.code [info]] := rfl
@[simp] theorem raiseFault_outEpoch (f : FaultKind) (info : Word) (s : State) : (raiseFault f info s).outEpoch = s.outEpoch := rfl
@[simp] theorem raiseFault_memEpoch (f : FaultKind) (info : Word) (s : State) : (raiseFault f info s).memEpoch = s.memEpoch := rfl

/-! ### decodeAborted -/

@[simp] theorem decodeAborted_ctrlXor (s : State) : (decodeAborted s).ctrlXor = s.ctrlXor := rfl
@[simp] theorem decodeAborted_sref (s : State) : (decodeAborted s).sref = s.sref := rfl
@[simp] theorem decodeAborted_estate (s : State) : (decodeAborted s).estate = s.estate := rfl
@[simp] theorem decodeAborted_j (s : State) : (decodeAborted s).j = s.j := rfl
@[simp] theorem decodeAborted_prev (s : State) : (decodeAborted s).prev = s.prev := rfl
@[simp] theorem decodeAborted_res (s : State) : (decodeAborted s).res = s.res := rfl
@[simp] theorem decodeAborted_run (s : State) : (decodeAborted s).run = s.run := rfl
@[simp] theorem decodeAborted_runcnt (s : State) : (decodeAborted s).runcnt = s.runcnt := rfl
@[simp] theorem decodeAborted_dsum (s : State) : (decodeAborted s).dsum = [] := rfl
@[simp] theorem decodeAborted_outValues (s : State) : (decodeAborted s).outValues = [] := rfl
@[simp] theorem decodeAborted_outQuality (s : State) : (decodeAborted s).outQuality = [] := rfl
@[simp] theorem decodeAborted_outn (s : State) : (decodeAborted s).outn = 0 := rfl
@[simp] theorem decodeAborted_faults (s : State) : (decodeAborted s).faults = s.faults := rfl
@[simp] theorem decodeAborted_straps (s : State) : (decodeAborted s).straps = s.straps := rfl
@[simp] theorem decodeAborted_port (s : State) : (decodeAborted s).port = s.port := rfl
@[simp] theorem decodeAborted_responses (s : State) : (decodeAborted s).responses = s.responses := rfl
@[simp] theorem decodeAborted_outEpoch (s : State) : (decodeAborted s).outEpoch = s.outEpoch + 1 := rfl
@[simp] theorem decodeAborted_memEpoch (s : State) : (decodeAborted s).memEpoch = s.memEpoch := rfl

/-! ### clearMessage -/

@[simp] theorem clearMessage_ctrlXor (s : State) : (clearMessage s).ctrlXor = s.ctrlXor := rfl
@[simp] theorem clearMessage_sref (s : State) : (clearMessage s).sref = s.sref := rfl
@[simp] theorem clearMessage_estate (s : State) : (clearMessage s).estate = .idle := rfl
@[simp] theorem clearMessage_j (s : State) : (clearMessage s).j = 0 := rfl
@[simp] theorem clearMessage_prev (s : State) : (clearMessage s).prev = [] := rfl
@[simp] theorem clearMessage_res (s : State) : (clearMessage s).res = s.res := rfl
@[simp] theorem clearMessage_run (s : State) : (clearMessage s).run = s.run := rfl
@[simp] theorem clearMessage_runcnt (s : State) : (clearMessage s).runcnt = [] := rfl
@[simp] theorem clearMessage_dsum (s : State) : (clearMessage s).dsum = s.dsum := rfl
@[simp] theorem clearMessage_outValues (s : State) : (clearMessage s).outValues = s.outValues := rfl
@[simp] theorem clearMessage_outQuality (s : State) : (clearMessage s).outQuality = s.outQuality := rfl
@[simp] theorem clearMessage_outn (s : State) : (clearMessage s).outn = s.outn := rfl
@[simp] theorem clearMessage_faults (s : State) : (clearMessage s).faults = s.faults := rfl
@[simp] theorem clearMessage_straps (s : State) : (clearMessage s).straps = s.straps := rfl
@[simp] theorem clearMessage_port (s : State) : (clearMessage s).port = s.port := rfl
@[simp] theorem clearMessage_responses (s : State) : (clearMessage s).responses = s.responses := rfl
@[simp] theorem clearMessage_outEpoch (s : State) : (clearMessage s).outEpoch = s.outEpoch := rfl
@[simp] theorem clearMessage_memEpoch (s : State) : (clearMessage s).memEpoch = s.memEpoch := rfl

/-! ### takeReset -/

@[simp] theorem takeReset_ctrlXor (s : State) : (takeReset s).ctrlXor = false := rfl
@[simp] theorem takeReset_sref (s : State) : (takeReset s).sref = [] := rfl
@[simp] theorem takeReset_estate (s : State) : (takeReset s).estate = .idle := rfl
@[simp] theorem takeReset_j (s : State) : (takeReset s).j = 0 := rfl
@[simp] theorem takeReset_prev (s : State) : (takeReset s).prev = [] := rfl
@[simp] theorem takeReset_res (s : State) : (takeReset s).res = [] := rfl
@[simp] theorem takeReset_run (s : State) : (takeReset s).run = [] := rfl
@[simp] theorem takeReset_runcnt (s : State) : (takeReset s).runcnt = [] := rfl
@[simp] theorem takeReset_dsum (s : State) : (takeReset s).dsum = [] := rfl
@[simp] theorem takeReset_outValues (s : State) : (takeReset s).outValues = [] := rfl
@[simp] theorem takeReset_outQuality (s : State) : (takeReset s).outQuality = [] := rfl
@[simp] theorem takeReset_outn (s : State) : (takeReset s).outn = 0 := rfl
@[simp] theorem takeReset_faults (s : State) : (takeReset s).faults = 0 := rfl
@[simp] theorem takeReset_straps (s : State) : (takeReset s).straps = s.straps := rfl
@[simp] theorem takeReset_port (s : State) : (takeReset s).port = s.port := rfl
@[simp] theorem takeReset_responses (s : State) : (takeReset s).responses = s.responses := rfl
@[simp] theorem takeReset_outEpoch (s : State) : (takeReset s).outEpoch = s.outEpoch + 1 := rfl
@[simp] theorem takeReset_memEpoch (s : State) : (takeReset s).memEpoch = s.memEpoch + 1 := rfl

end Sys2Proof.Machine
end

