-- ==== Sys2Proof/Laws/Table.lean ====
section
/-! SUPPORT. The indexed arrays: a read after a write, and the canonical form that every write keeps. -/

namespace Sys2Proof.Machine

variable {α : Type}

/-! ## Reads after writes -/

theorem Table.find_put (t : Table α) (k k' : Index) (v : α) :
    (t.put k v).find k' = if k = k' then some v else t.find k' := by
  induction t with
  | nil => simp [Table.put, Table.find]
  | cons e t ih =>
    obtain ⟨a, b⟩ := e
    by_cases h1 : a = k
    · subst h1
      by_cases h2 : a = k' <;> simp [Table.put, Table.find, h2]
    · by_cases h3 : k.lt a
      · by_cases h2 : k = k'
        · subst h2
          simp [Table.put, Table.find, h1, h3]
        · simp [Table.put, Table.find, h1, h3, h2]
      · by_cases h4 : a = k'
        · subst h4
          simp [Table.put, Table.find, h1, h3, Ne.symm h1]
        · simp [Table.put, Table.find, h1, h3, h4]
          exact ih

theorem Table.find_erase (t : Table α) (k k' : Index) :
    (t.erase k).find k' = if k = k' then none else t.find k' := by
  induction t with
  | nil => simp [Table.erase, Table.find]
  | cons e t ih =>
    obtain ⟨a, b⟩ := e
    by_cases h1 : a = k
    · subst h1
      by_cases h2 : a = k' <;> simp_all [Table.erase, Table.find]
    · by_cases h2 : a = k'
      · subst h2
        simp [Table.erase, Table.find, h1, Ne.symm h1]
      · simp only [Table.erase, Table.find, h1, h2, if_false]
        exact ih

/-- Reading an array after writing it: the value written at the place written, what was there at every
other place. -/
theorem Table.get_put (t : Table α) (k k' : Index) (v d : α) :
    (t.put k v).get k' d = if k = k' then v else t.get k' d := by
  unfold Table.get
  rw [Table.find_put]
  split <;> rfl

/-- Reading an array after writing it, for an array whose unlisted entries read as `d`. -/
theorem Table.get_putOr [DecidableEq α] (t : Table α) (k k' : Index) (v d : α) :
    (t.putOr d k v).get k' d = if k = k' then v else t.get k' d := by
  unfold Table.putOr
  by_cases h : v = d
  · simp only [h, if_true]
    unfold Table.get
    rw [Table.find_erase]
    split <;> rfl
  · simp only [h, if_false]
    exact Table.get_put t k k' v d

@[simp] theorem Table.get_nil (k : Index) (d : α) : Table.get ([] : Table α) k d = d := rfl

/-! ## The canonical form -/

theorem Index.lt_iff (a b : Index) : a.lt b = true ↔ a.1 < b.1 ∨ (a.1 = b.1 ∧ a.2 < b.2) := by
  simp [Index.lt]

theorem Index.lt_trans {a b c : Index} (h : a.lt b = true) (h' : b.lt c = true) : a.lt c = true := by
  rw [Index.lt_iff] at *
  omega

theorem Index.lt_or_eq_or_gt (a b : Index) : a.lt b = true ∨ a = b ∨ b.lt a = true := by
  rw [Index.lt_iff, Index.lt_iff]
  obtain ⟨a1, a2⟩ := a
  obtain ⟨b1, b2⟩ := b
  simp only [Prod.mk.injEq]
  omega

theorem Table.above_mono {t : Table α} {k k' : Index} (h : k.lt k' = true)
    (h' : Table.above k' t = true) : Table.above k t = true := by
  simp only [Table.above, List.all_eq_true] at *
  exact fun e he => Index.lt_trans h (h' e he)

theorem Table.above_put {t : Table α} {k k' : Index} {v : α} (h : k.lt k' = true)
    (h' : Table.above k t = true) : Table.above k (t.put k' v) = true := by
  induction t with
  | nil => simp [Table.put, Table.above, h]
  | cons e t ih =>
    obtain ⟨a, b⟩ := e
    have ha : k.lt a = true ∧ Table.above k t = true := by
      simpa [Table.above] using h'
    by_cases h1 : a = k'
    · simpa [Table.put, h1, Table.above, h] using ha.2
    · by_cases h3 : k'.lt a
      · simpa [Table.put, h1, h3, Table.above, h, ha.1] using ha.2
      · simpa [Table.put, h1, h3, Table.above, ha.1] using ih ha.2

theorem Table.above_erase {t : Table α} {k k' : Index} (h : Table.above k t = true) :
    Table.above k (t.erase k') = true := by
  induction t with
  | nil => simp [Table.erase, Table.above]
  | cons e t ih =>
    obtain ⟨a, b⟩ := e
    have ha : k.lt a = true ∧ Table.above k t = true := by
      simpa [Table.above] using h
    by_cases h1 : a = k'
    · simpa [Table.erase, h1] using ih ha.2
    · simpa [Table.erase, h1, Table.above, ha.1] using ih ha.2

theorem Table.wf_cons {k : Index} {v : α} {t : Table α} :
    Table.wf ((k, v) :: t) = true ↔ Table.above k t = true ∧ t.wf = true := by
  simp [Table.wf]

/-- A write keeps the indices strictly rising. -/
theorem Table.wf_put {t : Table α} {k : Index} {v : α} (h : t.wf = true) : (t.put k v).wf = true := by
  induction t with
  | nil => simp [Table.put, Table.wf, Table.above]
  | cons e t ih =>
    obtain ⟨a, b⟩ := e
    have ha := Table.wf_cons.1 h
    by_cases h1 : a = k
    · subst h1
      simpa [Table.put] using Table.wf_cons.2 ha
    · by_cases h3 : k.lt a
      · have : Table.above k ((a, b) :: t) = true := by
          simpa [Table.above, h3] using Table.above_mono h3 ha.1
        simpa [Table.put, h1, h3] using Table.wf_cons.2 ⟨this, h⟩
      · have hlt : a.lt k = true := by
          rcases Index.lt_or_eq_or_gt a k with h | h | h
          · exact h
          · exact absurd h h1
          · exact absurd h h3
        simpa [Table.put, h1, h3] using Table.wf_cons.2 ⟨Table.above_put hlt ha.1, ih ha.2⟩

theorem Table.wf_erase {t : Table α} {k : Index} (h : t.wf = true) : (t.erase k).wf = true := by
  induction t with
  | nil => simp [Table.erase, Table.wf]
  | cons e t ih =>
    obtain ⟨a, b⟩ := e
    have ha := Table.wf_cons.1 h
    by_cases h1 : a = k
    · simpa [Table.erase, h1] using ih ha.2
    · simpa [Table.erase, h1] using Table.wf_cons.2 ⟨Table.above_erase ha.1, ih ha.2⟩

theorem Table.all_put {t : Table α} {k : Index} {v : α} {p : Index × α → Bool}
    (hv : p (k, v) = true) (h : t.all p = true) : (t.put k v).all p = true := by
  induction t with
  | nil => simp [Table.put, hv]
  | cons e t ih =>
    obtain ⟨a, b⟩ := e
    have ha : p (a, b) = true ∧ t.all p = true := by simpa using h
    by_cases h1 : a = k
    · simpa [Table.put, h1, hv] using ha.2
    · by_cases h3 : k.lt a
      · simpa [Table.put, h1, h3, hv, ha.1] using ha.2
      · simpa [Table.put, h1, h3, ha.1] using ih ha.2

theorem Table.all_erase {t : Table α} {k : Index} {p : Index × α → Bool} (h : t.all p = true) :
    (t.erase k).all p = true := by
  induction t with
  | nil => simp [Table.erase]
  | cons e t ih =>
    obtain ⟨a, b⟩ := e
    have ha : p (a, b) = true ∧ t.all p = true := by simpa using h
    by_cases h1 : a = k
    · simpa [Table.erase, h1] using ih ha.2
    · simpa [Table.erase, h1, ha.1] using ih ha.2

/-- A write keeps the canonical form of an array whose unlisted entries read as `d`. -/
theorem Table.wfOr_putOr [DecidableEq α] {t : Table α} {k : Index} {v d : α} (h : t.wfOr d = true) :
    (t.putOr d k v).wfOr d = true := by
  unfold Table.wfOr at *
  rw [Bool.and_eq_true] at *
  by_cases hv : v = d
  · simpa only [Table.putOr, if_pos hv] using ⟨Table.wf_erase h.1, Table.all_erase h.2⟩
  · simpa only [Table.putOr, if_neg hv] using
      ⟨Table.wf_put h.1, Table.all_put (by simpa using hv) h.2⟩

end Sys2Proof.Machine
end

