-- ==== Sys2Proof/Laws/Reads.lean ====
section
/-! SUPPORT. What the arrays read as after each update of the state, and the canonical form that every
update keeps. -/

namespace Sys2Proof.Machine

/-! ### setXor -/

@[simp] theorem setXor_srefAt (x : Bool) (s : State) (a : Nat) :
    (s.setXor x).srefAt a = s.srefAt a := rfl
@[simp] theorem setXor_prevAt (x : Bool) (s : State) (a b : Nat) :
    (s.setXor x).prevAt a b = s.prevAt a b := rfl
@[simp] theorem setXor_resAt (x : Bool) (s : State) (a b : Nat) :
    (s.setXor x).resAt a b = s.resAt a b := rfl
@[simp] theorem setXor_runAt (x : Bool) (s : State) (a b : Nat) :
    (s.setXor x).runAt a b = s.runAt a b := rfl
@[simp] theorem setXor_runcntAt (x : Bool) (s : State) (a : Nat) :
    (s.setXor x).runcntAt a = s.runcntAt a := rfl
@[simp] theorem setXor_dsumAt (x : Bool) (s : State) (a b : Nat) :
    (s.setXor x).dsumAt a b = s.dsumAt a b := rfl
@[simp] theorem setXor_outValueAt (x : Bool) (s : State) (a b : Nat) :
    (s.setXor x).outValueAt a b = s.outValueAt a b := rfl
@[simp] theorem setXor_outQualityAt (x : Bool) (s : State) (a b : Nat) :
    (s.setXor x).outQualityAt a b = s.outQualityAt a b := rfl

/-! ### setSref -/

@[simp] theorem setSref_srefAt (i : Nat) (r : Word) (s : State) (a : Nat) :
    (s.setSref i r).srefAt a = if i = a then r else s.srefAt a := by
  simp [State.srefAt, Table.get_putOr, Prod.mk.injEq]
@[simp] theorem setSref_prevAt (i : Nat) (r : Word) (s : State) (a b : Nat) :
    (s.setSref i r).prevAt a b = s.prevAt a b := rfl
@[simp] theorem setSref_resAt (i : Nat) (r : Word) (s : State) (a b : Nat) :
    (s.setSref i r).resAt a b = s.resAt a b := rfl
@[simp] theorem setSref_runAt (i : Nat) (r : Word) (s : State) (a b : Nat) :
    (s.setSref i r).runAt a b = s.runAt a b := rfl
@[simp] theorem setSref_runcntAt (i : Nat) (r : Word) (s : State) (a : Nat) :
    (s.setSref i r).runcntAt a = s.runcntAt a := rfl
@[simp] theorem setSref_dsumAt (i : Nat) (r : Word) (s : State) (a b : Nat) :
    (s.setSref i r).dsumAt a b = s.dsumAt a b := rfl
@[simp] theorem setSref_outValueAt (i : Nat) (r : Word) (s : State) (a b : Nat) :
    (s.setSref i r).outValueAt a b = s.outValueAt a b := rfl
@[simp] theorem setSref_outQualityAt (i : Nat) (r : Word) (s : State) (a b : Nat) :
    (s.setSref i r).outQualityAt a b = s.outQualityAt a b := rfl

/-! ### setEstate -/

@[simp] theorem setEstate_srefAt (e : EState) (s : State) (a : Nat) :
    (s.setEstate e).srefAt a = s.srefAt a := rfl
@[simp] theorem setEstate_prevAt (e : EState) (s : State) (a b : Nat) :
    (s.setEstate e).prevAt a b = s.prevAt a b := rfl
@[simp] theorem setEstate_resAt (e : EState) (s : State) (a b : Nat) :
    (s.setEstate e).resAt a b = s.resAt a b := rfl
@[simp] theorem setEstate_runAt (e : EState) (s : State) (a b : Nat) :
    (s.setEstate e).runAt a b = s.runAt a b := rfl
@[simp] theorem setEstate_runcntAt (e : EState) (s : State) (a : Nat) :
    (s.setEstate e).runcntAt a = s.runcntAt a := rfl
@[simp] theorem setEstate_dsumAt (e : EState) (s : State) (a b : Nat) :
    (s.setEstate e).dsumAt a b = s.dsumAt a b := rfl
@[simp] theorem setEstate_outValueAt (e : EState) (s : State) (a b : Nat) :
    (s.setEstate e).outValueAt a b = s.outValueAt a b := rfl
@[simp] theorem setEstate_outQualityAt (e : EState) (s : State) (a b : Nat) :
    (s.setEstate e).outQualityAt a b = s.outQualityAt a b := rfl

/-! ### setJ -/

@[simp] theorem setJ_srefAt (n : Nat) (s : State) (a : Nat) :
    (s.setJ n).srefAt a = s.srefAt a := rfl
@[simp] theorem setJ_prevAt (n : Nat) (s : State) (a b : Nat) :
    (s.setJ n).prevAt a b = s.prevAt a b := rfl
@[simp] theorem setJ_resAt (n : Nat) (s : State) (a b : Nat) :
    (s.setJ n).resAt a b = s.resAt a b := rfl
@[simp] theorem setJ_runAt (n : Nat) (s : State) (a b : Nat) :
    (s.setJ n).runAt a b = s.runAt a b := rfl
@[simp] theorem setJ_runcntAt (n : Nat) (s : State) (a : Nat) :
    (s.setJ n).runcntAt a = s.runcntAt a := rfl
@[simp] theorem setJ_dsumAt (n : Nat) (s : State) (a b : Nat) :
    (s.setJ n).dsumAt a b = s.dsumAt a b := rfl
@[simp] theorem setJ_outValueAt (n : Nat) (s : State) (a b : Nat) :
    (s.setJ n).outValueAt a b = s.outValueAt a b := rfl
@[simp] theorem setJ_outQualityAt (n : Nat) (s : State) (a b : Nat) :
    (s.setJ n).outQualityAt a b = s.outQualityAt a b := rfl

/-! ### setPrev -/

@[simp] theorem setPrev_srefAt (k i : Nat) (v : Word) (s : State) (a : Nat) :
    (s.setPrev k i v).srefAt a = s.srefAt a := rfl
@[simp] theorem setPrev_prevAt (k i : Nat) (v : Word) (s : State) (a b : Nat) :
    (s.setPrev k i v).prevAt a b = if k = a ∧ i = b then v else s.prevAt a b := by
  simp [State.prevAt, Table.get_putOr, Prod.mk.injEq]
@[simp] theorem setPrev_resAt (k i : Nat) (v : Word) (s : State) (a b : Nat) :
    (s.setPrev k i v).resAt a b = s.resAt a b := rfl
@[simp] theorem setPrev_runAt (k i : Nat) (v : Word) (s : State) (a b : Nat) :
    (s.setPrev k i v).runAt a b = s.runAt a b := rfl
@[simp] theorem setPrev_runcntAt (k i : Nat) (v : Word) (s : State) (a : Nat) :
    (s.setPrev k i v).runcntAt a = s.runcntAt a := rfl
@[simp] theorem setPrev_dsumAt (k i : Nat) (v : Word) (s : State) (a b : Nat) :
    (s.setPrev k i v).dsumAt a b = s.dsumAt a b := rfl
@[simp] theorem setPrev_outValueAt (k i : Nat) (v : Word) (s : State) (a b : Nat) :
    (s.setPrev k i v).outValueAt a b = s.outValueAt a b := rfl
@[simp] theorem setPrev_outQualityAt (k i : Nat) (v : Word) (s : State) (a b : Nat) :
    (s.setPrev k i v).outQualityAt a b = s.outQualityAt a b := rfl

/-! ### setRes -/

@[simp] theorem setRes_srefAt (i j : Nat) (v : Word) (s : State) (a : Nat) :
    (s.setRes i j v).srefAt a = s.srefAt a := rfl
@[simp] theorem setRes_prevAt (i j : Nat) (v : Word) (s : State) (a b : Nat) :
    (s.setRes i j v).prevAt a b = s.prevAt a b := rfl
@[simp] theorem setRes_resAt (i j : Nat) (v : Word) (s : State) (a b : Nat) :
    (s.setRes i j v).resAt a b = if i = a ∧ j = b then v else s.resAt a b := by
  simp [State.resAt, Table.get_put, Prod.mk.injEq]
@[simp] theorem setRes_runAt (i j : Nat) (v : Word) (s : State) (a b : Nat) :
    (s.setRes i j v).runAt a b = s.runAt a b := rfl
@[simp] theorem setRes_runcntAt (i j : Nat) (v : Word) (s : State) (a : Nat) :
    (s.setRes i j v).runcntAt a = s.runcntAt a := rfl
@[simp] theorem setRes_dsumAt (i j : Nat) (v : Word) (s : State) (a b : Nat) :
    (s.setRes i j v).dsumAt a b = s.dsumAt a b := rfl
@[simp] theorem setRes_outValueAt (i j : Nat) (v : Word) (s : State) (a b : Nat) :
    (s.setRes i j v).outValueAt a b = s.outValueAt a b := rfl
@[simp] theorem setRes_outQualityAt (i j : Nat) (v : Word) (s : State) (a b : Nat) :
    (s.setRes i j v).outQualityAt a b = s.outQualityAt a b := rfl

/-! ### setRun -/

@[simp] theorem setRun_srefAt (i r : Nat) (x : Run) (s : State) (a : Nat) :
    (s.setRun i r x).srefAt a = s.srefAt a := rfl
@[simp] theorem setRun_prevAt (i r : Nat) (x : Run) (s : State) (a b : Nat) :
    (s.setRun i r x).prevAt a b = s.prevAt a b := rfl
@[simp] theorem setRun_resAt (i r : Nat) (x : Run) (s : State) (a b : Nat) :
    (s.setRun i r x).resAt a b = s.resAt a b := rfl
@[simp] theorem setRun_runAt (i r : Nat) (x : Run) (s : State) (a b : Nat) :
    (s.setRun i r x).runAt a b = if i = a ∧ r = b then x else s.runAt a b := by
  simp [State.runAt, Table.get_put, Prod.mk.injEq]
@[simp] theorem setRun_runcntAt (i r : Nat) (x : Run) (s : State) (a : Nat) :
    (s.setRun i r x).runcntAt a = s.runcntAt a := rfl
@[simp] theorem setRun_dsumAt (i r : Nat) (x : Run) (s : State) (a b : Nat) :
    (s.setRun i r x).dsumAt a b = s.dsumAt a b := rfl
@[simp] theorem setRun_outValueAt (i r : Nat) (x : Run) (s : State) (a b : Nat) :
    (s.setRun i r x).outValueAt a b = s.outValueAt a b := rfl
@[simp] theorem setRun_outQualityAt (i r : Nat) (x : Run) (s : State) (a b : Nat) :
    (s.setRun i r x).outQualityAt a b = s.outQualityAt a b := rfl

/-! ### setRuncnt -/

@[simp] theorem setRuncnt_srefAt (i n : Nat) (s : State) (a : Nat) :
    (s.setRuncnt i n).srefAt a = s.srefAt a := rfl
@[simp] theorem setRuncnt_prevAt (i n : Nat) (s : State) (a b : Nat) :
    (s.setRuncnt i n).prevAt a b = s.prevAt a b := rfl
@[simp] theorem setRuncnt_resAt (i n : Nat) (s : State) (a b : Nat) :
    (s.setRuncnt i n).resAt a b = s.resAt a b := rfl
@[simp] theorem setRuncnt_runAt (i n : Nat) (s : State) (a b : Nat) :
    (s.setRuncnt i n).runAt a b = s.runAt a b := rfl
@[simp] theorem setRuncnt_runcntAt (i n : Nat) (s : State) (a : Nat) :
    (s.setRuncnt i n).runcntAt a = if i = a then n else s.runcntAt a := by
  simp [State.runcntAt, Table.get_putOr, Prod.mk.injEq]
@[simp] theorem setRuncnt_dsumAt (i n : Nat) (s : State) (a b : Nat) :
    (s.setRuncnt i n).dsumAt a b = s.dsumAt a b := rfl
@[simp] theorem setRuncnt_outValueAt (i n : Nat) (s : State) (a b : Nat) :
    (s.setRuncnt i n).outValueAt a b = s.outValueAt a b := rfl
@[simp] theorem setRuncnt_outQualityAt (i n : Nat) (s : State) (a b : Nat) :
    (s.setRuncnt i n).outQualityAt a b = s.outQualityAt a b := rfl

/-! ### setDsum -/

@[simp] theorem setDsum_srefAt (k i : Nat) (v : Word) (s : State) (a : Nat) :
    (s.setDsum k i v).srefAt a = s.srefAt a := rfl
@[simp] theorem setDsum_prevAt (k i : Nat) (v : Word) (s : State) (a b : Nat) :
    (s.setDsum k i v).prevAt a b = s.prevAt a b := rfl
@[simp] theorem setDsum_resAt (k i : Nat) (v : Word) (s : State) (a b : Nat) :
    (s.setDsum k i v).resAt a b = s.resAt a b := rfl
@[simp] theorem setDsum_runAt (k i : Nat) (v : Word) (s : State) (a b : Nat) :
    (s.setDsum k i v).runAt a b = s.runAt a b := rfl
@[simp] theorem setDsum_runcntAt (k i : Nat) (v : Word) (s : State) (a : Nat) :
    (s.setDsum k i v).runcntAt a = s.runcntAt a := rfl
@[simp] theorem setDsum_dsumAt (k i : Nat) (v : Word) (s : State) (a b : Nat) :
    (s.setDsum k i v).dsumAt a b = if k = a ∧ i = b then v else s.dsumAt a b := by
  simp [State.dsumAt, Table.get_putOr, Prod.mk.injEq]
@[simp] theorem setDsum_outValueAt (k i : Nat) (v : Word) (s : State) (a b : Nat) :
    (s.setDsum k i v).outValueAt a b = s.outValueAt a b := rfl
@[simp] theorem setDsum_outQualityAt (k i : Nat) (v : Word) (s : State) (a b : Nat) :
    (s.setDsum k i v).outQualityAt a b = s.outQualityAt a b := rfl

/-! ### setOutValue -/

@[simp] theorem setOutValue_srefAt (j i : Nat) (v : Word) (s : State) (a : Nat) :
    (s.setOutValue j i v).srefAt a = s.srefAt a := rfl
@[simp] theorem setOutValue_prevAt (j i : Nat) (v : Word) (s : State) (a b : Nat) :
    (s.setOutValue j i v).prevAt a b = s.prevAt a b := rfl
@[simp] theorem setOutValue_resAt (j i : Nat) (v : Word) (s : State) (a b : Nat) :
    (s.setOutValue j i v).resAt a b = s.resAt a b := rfl
@[simp] theorem setOutValue_runAt (j i : Nat) (v : Word) (s : State) (a b : Nat) :
    (s.setOutValue j i v).runAt a b = s.runAt a b := rfl
@[simp] theorem setOutValue_runcntAt (j i : Nat) (v : Word) (s : State) (a : Nat) :
    (s.setOutValue j i v).runcntAt a = s.runcntAt a := rfl
@[simp] theorem setOutValue_dsumAt (j i : Nat) (v : Word) (s : State) (a b : Nat) :
    (s.setOutValue j i v).dsumAt a b = s.dsumAt a b := rfl
@[simp] theorem setOutValue_outValueAt (j i : Nat) (v : Word) (s : State) (a b : Nat) :
    (s.setOutValue j i v).outValueAt a b = if j = a ∧ i = b then v else s.outValueAt a b := by
  simp [State.outValueAt, Table.get_put, Prod.mk.injEq]
@[simp] theorem setOutValue_outQualityAt (j i : Nat) (v : Word) (s : State) (a b : Nat) :
    (s.setOutValue j i v).outQualityAt a b = s.outQualityAt a b := rfl

/-! ### setOutQuality -/

@[simp] theorem setOutQuality_srefAt (j i : Nat) (q : Word) (s : State) (a : Nat) :
    (s.setOutQuality j i q).srefAt a = s.srefAt a := rfl
@[simp] theorem setOutQuality_prevAt (j i : Nat) (q : Word) (s : State) (a b : Nat) :
    (s.setOutQuality j i q).prevAt a b = s.prevAt a b := rfl
@[simp] theorem setOutQuality_resAt (j i : Nat) (q : Word) (s : State) (a b : Nat) :
    (s.setOutQuality j i q).resAt a b = s.resAt a b := rfl
@[simp] theorem setOutQuality_runAt (j i : Nat) (q : Word) (s : State) (a b : Nat) :
    (s.setOutQuality j i q).runAt a b = s.runAt a b := rfl
@[simp] theorem setOutQuality_runcntAt (j i : Nat) (q : Word) (s : State) (a : Nat) :
    (s.setOutQuality j i q).runcntAt a = s.runcntAt a := rfl
@[simp] theorem setOutQuality_dsumAt (j i : Nat) (q : Word) (s : State) (a b : Nat) :
    (s.setOutQuality j i q).dsumAt a b = s.dsumAt a b := rfl
@[simp] theorem setOutQuality_outValueAt (j i : Nat) (q : Word) (s : State) (a b : Nat) :
    (s.setOutQuality j i q).outValueAt a b = s.outValueAt a b := rfl
@[simp] theorem setOutQuality_outQualityAt (j i : Nat) (q : Word) (s : State) (a b : Nat) :
    (s.setOutQuality j i q).outQualityAt a b = if j = a ∧ i = b then q else s.outQualityAt a b := by
  simp [State.outQualityAt, Table.get_put, Prod.mk.injEq]

/-! ### setOutn -/

@[simp] theorem setOutn_srefAt (n : Nat) (s : State) (a : Nat) :
    (s.setOutn n).srefAt a = s.srefAt a := rfl
@[simp] theorem setOutn_prevAt (n : Nat) (s : State) (a b : Nat) :
    (s.setOutn n).prevAt a b = s.prevAt a b := rfl
@[simp] theorem setOutn_resAt (n : Nat) (s : State) (a b : Nat) :
    (s.setOutn n).resAt a b = s.resAt a b := rfl
@[simp] theorem setOutn_runAt (n : Nat) (s : State) (a b : Nat) :
    (s.setOutn n).runAt a b = s.runAt a b := rfl
@[simp] theorem setOutn_runcntAt (n : Nat) (s : State) (a : Nat) :
    (s.setOutn n).runcntAt a = s.runcntAt a := rfl
@[simp] theorem setOutn_dsumAt (n : Nat) (s : State) (a b : Nat) :
    (s.setOutn n).dsumAt a b = s.dsumAt a b := rfl
@[simp] theorem setOutn_outValueAt (n : Nat) (s : State) (a b : Nat) :
    (s.setOutn n).outValueAt a b = s.outValueAt a b := rfl
@[simp] theorem setOutn_outQualityAt (n : Nat) (s : State) (a b : Nat) :
    (s.setOutn n).outQualityAt a b = s.outQualityAt a b := rfl

/-! ### clearPrev -/

@[simp] theorem clearPrev_srefAt (s : State) (a : Nat) :
    (s.clearPrev).srefAt a = s.srefAt a := rfl
@[simp] theorem clearPrev_prevAt (s : State) (a b : Nat) : (s.clearPrev).prevAt a b = 0 := rfl
@[simp] theorem clearPrev_resAt (s : State) (a b : Nat) :
    (s.clearPrev).resAt a b = s.resAt a b := rfl
@[simp] theorem clearPrev_runAt (s : State) (a b : Nat) :
    (s.clearPrev).runAt a b = s.runAt a b := rfl
@[simp] theorem clearPrev_runcntAt (s : State) (a : Nat) :
    (s.clearPrev).runcntAt a = s.runcntAt a := rfl
@[simp] theorem clearPrev_dsumAt (s : State) (a b : Nat) :
    (s.clearPrev).dsumAt a b = s.dsumAt a b := rfl
@[simp] theorem clearPrev_outValueAt (s : State) (a b : Nat) :
    (s.clearPrev).outValueAt a b = s.outValueAt a b := rfl
@[simp] theorem clearPrev_outQualityAt (s : State) (a b : Nat) :
    (s.clearPrev).outQualityAt a b = s.outQualityAt a b := rfl

/-! ### clearRuncnt -/

@[simp] theorem clearRuncnt_srefAt (s : State) (a : Nat) :
    (s.clearRuncnt).srefAt a = s.srefAt a := rfl
@[simp] theorem clearRuncnt_prevAt (s : State) (a b : Nat) :
    (s.clearRuncnt).prevAt a b = s.prevAt a b := rfl
@[simp] theorem clearRuncnt_resAt (s : State) (a b : Nat) :
    (s.clearRuncnt).resAt a b = s.resAt a b := rfl
@[simp] theorem clearRuncnt_runAt (s : State) (a b : Nat) :
    (s.clearRuncnt).runAt a b = s.runAt a b := rfl
@[simp] theorem clearRuncnt_runcntAt (s : State) (a : Nat) : (s.clearRuncnt).runcntAt a = 0 := rfl
@[simp] theorem clearRuncnt_dsumAt (s : State) (a b : Nat) :
    (s.clearRuncnt).dsumAt a b = s.dsumAt a b := rfl
@[simp] theorem clearRuncnt_outValueAt (s : State) (a b : Nat) :
    (s.clearRuncnt).outValueAt a b = s.outValueAt a b := rfl
@[simp] theorem clearRuncnt_outQualityAt (s : State) (a b : Nat) :
    (s.clearRuncnt).outQualityAt a b = s.outQualityAt a b := rfl

/-! ### clearDsum -/

@[simp] theorem clearDsum_srefAt (s : State) (a : Nat) :
    (s.clearDsum).srefAt a = s.srefAt a := rfl
@[simp] theorem clearDsum_prevAt (s : State) (a b : Nat) :
    (s.clearDsum).prevAt a b = s.prevAt a b := rfl
@[simp] theorem clearDsum_resAt (s : State) (a b : Nat) :
    (s.clearDsum).resAt a b = s.resAt a b := rfl
@[simp] theorem clearDsum_runAt (s : State) (a b : Nat) :
    (s.clearDsum).runAt a b = s.runAt a b := rfl
@[simp] theorem clearDsum_runcntAt (s : State) (a : Nat) :
    (s.clearDsum).runcntAt a = s.runcntAt a := rfl
@[simp] theorem clearDsum_dsumAt (s : State) (a b : Nat) : (s.clearDsum).dsumAt a b = 0 := rfl
@[simp] theorem clearDsum_outValueAt (s : State) (a b : Nat) :
    (s.clearDsum).outValueAt a b = s.outValueAt a b := rfl
@[simp] theorem clearDsum_outQualityAt (s : State) (a b : Nat) :
    (s.clearDsum).outQualityAt a b = s.outQualityAt a b := rfl

/-! ### forgetOut -/

@[simp] theorem forgetOut_srefAt (s : State) (a : Nat) :
    (s.forgetOut).srefAt a = s.srefAt a := rfl
@[simp] theorem forgetOut_prevAt (s : State) (a b : Nat) :
    (s.forgetOut).prevAt a b = s.prevAt a b := rfl
@[simp] theorem forgetOut_resAt (s : State) (a b : Nat) :
    (s.forgetOut).resAt a b = s.resAt a b := rfl
@[simp] theorem forgetOut_runAt (s : State) (a b : Nat) :
    (s.forgetOut).runAt a b = s.runAt a b := rfl
@[simp] theorem forgetOut_runcntAt (s : State) (a : Nat) :
    (s.forgetOut).runcntAt a = s.runcntAt a := rfl
@[simp] theorem forgetOut_dsumAt (s : State) (a b : Nat) :
    (s.forgetOut).dsumAt a b = s.dsumAt a b := rfl
@[simp] theorem forgetOut_outValueAt (s : State) (a b : Nat) :
    (s.forgetOut).outValueAt a b = Config.freeOutValue (s.outEpoch + 1) a b := rfl
@[simp] theorem forgetOut_outQualityAt (s : State) (a b : Nat) :
    (s.forgetOut).outQualityAt a b = Config.freeOutQuality (s.outEpoch + 1) a b := rfl

/-! ### respond -/

@[simp] theorem respond_srefAt (payload : List Word) (s : State) (a : Nat) :
    (respond payload s).srefAt a = s.srefAt a := rfl
@[simp] theorem respond_prevAt (payload : List Word) (s : State) (a b : Nat) :
    (respond payload s).prevAt a b = s.prevAt a b := rfl
@[simp] theorem respond_resAt (payload : List Word) (s : State) (a b : Nat) :
    (respond payload s).resAt a b = s.resAt a b := rfl
@[simp] theorem respond_runAt (payload : List Word) (s : State) (a b : Nat) :
    (respond payload s).runAt a b = s.runAt a b := rfl
@[simp] theorem respond_runcntAt (payload : List Word) (s : State) (a : Nat) :
    (respond payload s).runcntAt a = s.runcntAt a := rfl
@[simp] theorem respond_dsumAt (payload : List Word) (s : State) (a b : Nat) :
    (respond payload s).dsumAt a b = s.dsumAt a b := rfl
@[simp] theorem respond_outValueAt (payload : List Word) (s : State) (a b : Nat) :
    (respond payload s).outValueAt a b = s.outValueAt a b := rfl
@[simp] theorem respond_outQualityAt (payload : List Word) (s : State) (a b : Nat) :
    (respond payload s).outQualityAt a b = s.outQualityAt a b := rfl

/-! ### raiseFault -/

@[simp] theorem raiseFault_srefAt (f : FaultKind) (info : Word) (s : State) (a : Nat) :
    (raiseFault f info s).srefAt a = s.srefAt a := rfl
@[simp] theorem raiseFault_prevAt (f : FaultKind) (info : Word) (s : State) (a b : Nat) :
    (raiseFault f info s).prevAt a b = s.prevAt a b := rfl
@[simp] theorem raiseFault_resAt (f : FaultKind) (info : Word) (s : State) (a b : Nat) :
    (raiseFault f info s).resAt a b = s.resAt a b := rfl
@[simp] theorem raiseFault_runAt (f : FaultKind) (info : Word) (s : State) (a b : Nat) :
    (raiseFault f info s).runAt a b = s.runAt a b := rfl
@[simp] theorem raiseFault_runcntAt (f : FaultKind) (info : Word) (s : State) (a : Nat) :
    (raiseFault f info s).runcntAt a = s.runcntAt a := rfl
@[simp] theorem raiseFault_dsumAt (f : FaultKind) (info : Word) (s : State) (a b : Nat) :
    (raiseFault f info s).dsumAt a b = s.dsumAt a b := rfl
@[simp] theorem raiseFault_outValueAt (f : FaultKind) (info : Word) (s : State) (a b : Nat) :
    (raiseFault f info s).outValueAt a b = s.outValueAt a b := rfl
@[simp] theorem raiseFault_outQualityAt (f : FaultKind) (info : Word) (s : State) (a b : Nat) :
    (raiseFault f info s).outQualityAt a b = s.outQualityAt a b := rfl

/-! ### decodeAborted -/

@[simp] theorem decodeAborted_srefAt (s : State) (a : Nat) :
    (decodeAborted s).srefAt a = s.srefAt a := rfl
@[simp] theorem decodeAborted_prevAt (s : State) (a b : Nat) :
    (decodeAborted s).prevAt a b = s.prevAt a b := rfl
@[simp] theorem decodeAborted_resAt (s : State) (a b : Nat) :
    (decodeAborted s).resAt a b = s.resAt a b := rfl
@[simp] theorem decodeAborted_runAt (s : State) (a b : Nat) :
    (decodeAborted s).runAt a b = s.runAt a b := rfl
@[simp] theorem decodeAborted_runcntAt (s : State) (a : Nat) :
    (decodeAborted s).runcntAt a = s.runcntAt a := rfl
@[simp] theorem decodeAborted_dsumAt (s : State) (a b : Nat) : (decodeAborted s).dsumAt a b = 0 := rfl
@[simp] theorem decodeAborted_outValueAt (s : State) (a b : Nat) :
    (decodeAborted s).outValueAt a b = Config.freeOutValue (s.outEpoch + 1) a b := rfl
@[simp] theorem decodeAborted_outQualityAt (s : State) (a b : Nat) :
    (decodeAborted s).outQualityAt a b = Config.freeOutQuality (s.outEpoch + 1) a b := rfl

/-! ### clearMessage -/

@[simp] theorem clearMessage_srefAt (s : State) (a : Nat) :
    (clearMessage s).srefAt a = s.srefAt a := rfl
@[simp] theorem clearMessage_prevAt (s : State) (a b : Nat) : (clearMessage s).prevAt a b = 0 := rfl
@[simp] theorem clearMessage_resAt (s : State) (a b : Nat) :
    (clearMessage s).resAt a b = s.resAt a b := rfl
@[simp] theorem clearMessage_runAt (s : State) (a b : Nat) :
    (clearMessage s).runAt a b = s.runAt a b := rfl
@[simp] theorem clearMessage_runcntAt (s : State) (a : Nat) : (clearMessage s).runcntAt a = 0 := rfl
@[simp] theorem clearMessage_dsumAt (s : State) (a b : Nat) :
    (clearMessage s).dsumAt a b = s.dsumAt a b := rfl
@[simp] theorem clearMessage_outValueAt (s : State) (a b : Nat) :
    (clearMessage s).outValueAt a b = s.outValueAt a b := rfl
@[simp] theorem clearMessage_outQualityAt (s : State) (a b : Nat) :
    (clearMessage s).outQualityAt a b = s.outQualityAt a b := rfl

/-! ## The canonical form -/

theorem Memory.wf_iff (s : State) :
    Memory.wf s = true ↔
      s.sref.wfOr noRef = true ∧ s.prev.wfOr 0 = true ∧ s.res.wf = true ∧ s.run.wf = true ∧
        s.runcnt.wfOr 0 = true ∧ s.dsum.wfOr 0 = true ∧ s.outValues.wf = true ∧
        s.outQuality.wf = true := by
  simp [Memory.wf, and_assoc]

/-- The state after reset has the canonical form. -/
theorem wf_resetOf (p : Straps) (port : List Input) (rs : List Packet) (e m : Nat) :
    Memory.wf (State.resetOf p port rs e m) = true := rfl

/-- The state after reset has the canonical form. -/
theorem wf_reset : Memory.wf State.reset = true := rfl

theorem wf_setXor (x : Bool) {s : State} (h : Memory.wf s = true) : Memory.wf (s.setXor x) = true := h
theorem wf_setSref (i : Nat) (r : Word) {s : State} (h : Memory.wf s = true) : Memory.wf (s.setSref i r) = true := by
  rw [Memory.wf_iff] at *
  simp only [setSref_sref, setSref_prev, setSref_res, setSref_run, setSref_runcnt, setSref_dsum, setSref_outValues,
    setSref_outQuality]
  exact ⟨Table.wfOr_putOr h.1, h.2.1, h.2.2.1, h.2.2.2.1, h.2.2.2.2.1, h.2.2.2.2.2.1, h.2.2.2.2.2.2.1, h.2.2.2.2.2.2.2⟩
theorem wf_setEstate (e : EState) {s : State} (h : Memory.wf s = true) : Memory.wf (s.setEstate e) = true := h
theorem wf_setJ (n : Nat) {s : State} (h : Memory.wf s = true) : Memory.wf (s.setJ n) = true := h
theorem wf_setPrev (k i : Nat) (v : Word) {s : State} (h : Memory.wf s = true) : Memory.wf (s.setPrev k i v) = true := by
  rw [Memory.wf_iff] at *
  simp only [setPrev_sref, setPrev_prev, setPrev_res, setPrev_run, setPrev_runcnt, setPrev_dsum, setPrev_outValues,
    setPrev_outQuality]
  exact ⟨h.1, Table.wfOr_putOr h.2.1, h.2.2.1, h.2.2.2.1, h.2.2.2.2.1, h.2.2.2.2.2.1, h.2.2.2.2.2.2.1, h.2.2.2.2.2.2.2⟩
theorem wf_setRes (i j : Nat) (v : Word) {s : State} (h : Memory.wf s = true) : Memory.wf (s.setRes i j v) = true := by
  rw [Memory.wf_iff] at *
  simp only [setRes_sref, setRes_prev, setRes_res, setRes_run, setRes_runcnt, setRes_dsum, setRes_outValues,
    setRes_outQuality]
  exact ⟨h.1, h.2.1, Table.wf_put h.2.2.1, h.2.2.2.1, h.2.2.2.2.1, h.2.2.2.2.2.1, h.2.2.2.2.2.2.1, h.2.2.2.2.2.2.2⟩
theorem wf_setRun (i r : Nat) (x : Run) {s : State} (h : Memory.wf s = true) : Memory.wf (s.setRun i r x) = true := by
  rw [Memory.wf_iff] at *
  simp only [setRun_sref, setRun_prev, setRun_res, setRun_run, setRun_runcnt, setRun_dsum, setRun_outValues,
    setRun_outQuality]
  exact ⟨h.1, h.2.1, h.2.2.1, Table.wf_put h.2.2.2.1, h.2.2.2.2.1, h.2.2.2.2.2.1, h.2.2.2.2.2.2.1, h.2.2.2.2.2.2.2⟩
theorem wf_setRuncnt (i n : Nat) {s : State} (h : Memory.wf s = true) : Memory.wf (s.setRuncnt i n) = true := by
  rw [Memory.wf_iff] at *
  simp only [setRuncnt_sref, setRuncnt_prev, setRuncnt_res, setRuncnt_run, setRuncnt_runcnt, setRuncnt_dsum, setRuncnt_outValues,
    setRuncnt_outQuality]
  exact ⟨h.1, h.2.1, h.2.2.1, h.2.2.2.1, Table.wfOr_putOr h.2.2.2.2.1, h.2.2.2.2.2.1, h.2.2.2.2.2.2.1, h.2.2.2.2.2.2.2⟩
theorem wf_setDsum (k i : Nat) (v : Word) {s : State} (h : Memory.wf s = true) : Memory.wf (s.setDsum k i v) = true := by
  rw [Memory.wf_iff] at *
  simp only [setDsum_sref, setDsum_prev, setDsum_res, setDsum_run, setDsum_runcnt, setDsum_dsum, setDsum_outValues,
    setDsum_outQuality]
  exact ⟨h.1, h.2.1, h.2.2.1, h.2.2.2.1, h.2.2.2.2.1, Table.wfOr_putOr h.2.2.2.2.2.1, h.2.2.2.2.2.2.1, h.2.2.2.2.2.2.2⟩
theorem wf_setOutValue (j i : Nat) (v : Word) {s : State} (h : Memory.wf s = true) : Memory.wf (s.setOutValue j i v) = true := by
  rw [Memory.wf_iff] at *
  simp only [setOutValue_sref, setOutValue_prev, setOutValue_res, setOutValue_run, setOutValue_runcnt, setOutValue_dsum, setOutValue_outValues,
    setOutValue_outQuality]
  exact ⟨h.1, h.2.1, h.2.2.1, h.2.2.2.1, h.2.2.2.2.1, h.2.2.2.2.2.1, Table.wf_put h.2.2.2.2.2.2.1, h.2.2.2.2.2.2.2⟩
theorem wf_setOutQuality (j i : Nat) (q : Word) {s : State} (h : Memory.wf s = true) : Memory.wf (s.setOutQuality j i q) = true := by
  rw [Memory.wf_iff] at *
  simp only [setOutQuality_sref, setOutQuality_prev, setOutQuality_res, setOutQuality_run, setOutQuality_runcnt, setOutQuality_dsum, setOutQuality_outValues,
    setOutQuality_outQuality]
  exact ⟨h.1, h.2.1, h.2.2.1, h.2.2.2.1, h.2.2.2.2.1, h.2.2.2.2.2.1, h.2.2.2.2.2.2.1, Table.wf_put h.2.2.2.2.2.2.2⟩
theorem wf_setOutn (n : Nat) {s : State} (h : Memory.wf s = true) : Memory.wf (s.setOutn n) = true := h
theorem wf_clearPrev {s : State} (h : Memory.wf s = true) : Memory.wf (s.clearPrev) = true := by
  rw [Memory.wf_iff] at *
  simp only [clearPrev_sref, clearPrev_prev, clearPrev_res, clearPrev_run, clearPrev_runcnt, clearPrev_dsum, clearPrev_outValues,
    clearPrev_outQuality]
  exact ⟨h.1, rfl, h.2.2.1, h.2.2.2.1, h.2.2.2.2.1, h.2.2.2.2.2.1, h.2.2.2.2.2.2.1, h.2.2.2.2.2.2.2⟩
theorem wf_clearRuncnt {s : State} (h : Memory.wf s = true) : Memory.wf (s.clearRuncnt) = true := by
  rw [Memory.wf_iff] at *
  simp only [clearRuncnt_sref, clearRuncnt_prev, clearRuncnt_res, clearRuncnt_run, clearRuncnt_runcnt, clearRuncnt_dsum, clearRuncnt_outValues,
    clearRuncnt_outQuality]
  exact ⟨h.1, h.2.1, h.2.2.1, h.2.2.2.1, rfl, h.2.2.2.2.2.1, h.2.2.2.2.2.2.1, h.2.2.2.2.2.2.2⟩
theorem wf_clearDsum {s : State} (h : Memory.wf s = true) : Memory.wf (s.clearDsum) = true := by
  rw [Memory.wf_iff] at *
  simp only [clearDsum_sref, clearDsum_prev, clearDsum_res, clearDsum_run, clearDsum_runcnt, clearDsum_dsum, clearDsum_outValues,
    clearDsum_outQuality]
  exact ⟨h.1, h.2.1, h.2.2.1, h.2.2.2.1, h.2.2.2.2.1, rfl, h.2.2.2.2.2.2.1, h.2.2.2.2.2.2.2⟩
theorem wf_forgetOut {s : State} (h : Memory.wf s = true) : Memory.wf (s.forgetOut) = true := by
  rw [Memory.wf_iff] at *
  simp only [forgetOut_sref, forgetOut_prev, forgetOut_res, forgetOut_run, forgetOut_runcnt, forgetOut_dsum, forgetOut_outValues,
    forgetOut_outQuality]
  exact ⟨h.1, h.2.1, h.2.2.1, h.2.2.2.1, h.2.2.2.2.1, h.2.2.2.2.2.1, rfl, rfl⟩
theorem wf_respond (payload : List Word) {s : State} (h : Memory.wf s = true) : Memory.wf (respond payload s) = true := h
theorem wf_raiseFault (f : FaultKind) (info : Word) {s : State} (h : Memory.wf s = true) : Memory.wf (raiseFault f info s) = true := h
theorem wf_decodeAborted {s : State} (h : Memory.wf s = true) : Memory.wf (decodeAborted s) = true := by
  rw [Memory.wf_iff] at *
  simp only [decodeAborted_sref, decodeAborted_prev, decodeAborted_res, decodeAborted_run, decodeAborted_runcnt, decodeAborted_dsum, decodeAborted_outValues,
    decodeAborted_outQuality]
  exact ⟨h.1, h.2.1, h.2.2.1, h.2.2.2.1, h.2.2.2.2.1, rfl, rfl, rfl⟩
theorem wf_clearMessage {s : State} (h : Memory.wf s = true) : Memory.wf (clearMessage s) = true := by
  rw [Memory.wf_iff] at *
  simp only [clearMessage_sref, clearMessage_prev, clearMessage_res, clearMessage_run, clearMessage_runcnt, clearMessage_dsum, clearMessage_outValues,
    clearMessage_outQuality]
  exact ⟨h.1, rfl, h.2.2.1, h.2.2.2.1, rfl, h.2.2.2.2.2.1, h.2.2.2.2.2.2.1, h.2.2.2.2.2.2.2⟩

end Sys2Proof.Machine
end

