-- ==== Sys2Proof/Laws/Decode.lean ====
section
/-! SUPPORT. What the shared operations of the decode side can do, each said once: reconstruction, fixup,
parser, expander. -/

namespace Sys2Proof.Machine

/-! ## Reconstruction (43_predictor.md R211, R212) -/

theorem cascade_frame (i n : Nat) (s : State) : ∃ d, cascade i n s = { s with dsum := d } := by
  induction n generalizing s with
  | zero => exact ⟨_, rfl⟩
  | succ n ih =>
    obtain ⟨d, h⟩ := ih (s.setDsum n i (oplus s.ctrlXor (s.dsumAt n i) (s.dsumAt (n + 1) i)))
    exact ⟨d, by rw [cascade, h]; rfl⟩

theorem accumulate_frame (j i : Nat) (r : Word) (s : State) :
    ∃ d, accumulate j i r s = { s with dsum := d } := by
  unfold accumulate
  simp only
  obtain ⟨d, h⟩ := cascade_frame i (min j (Config.D - 1) - 1)
    (s.setDsum (min j (Config.D - 1) - 1) i
      (oplus s.ctrlXor (s.dsumAt (min j (Config.D - 1) - 1) i) r))
  exact ⟨d, by rw [h]; rfl⟩

/-- Reconstructing a sample writes `DSUM` and `OUT.values` and nothing else (R210). -/
theorem reconstruct_frame (j i : Nat) (r : Word) (s : State) :
    ∃ d o, reconstruct j i r s = { s with dsum := d, outValues := o } := by
  unfold reconstruct
  split
  · exact ⟨_, _, rfl⟩
  · obtain ⟨d, h⟩ := accumulate_frame j i r s
    simp only
    rw [h]
    exact ⟨_, _, rfl⟩

/-- What `DSUM` holds after the accumulation of sample `j >= 1` with `D = 3` (R212): one layer at `j = 1`,
two layers, the upper first, at every later `j`. -/
theorem accumulate_dsumAt (j i : Nat) (r : Word) (s : State) (hj : j ≠ 0) (k' i' : Nat) :
    (accumulate j i r s).dsumAt k' i' =
      if i = i' then
        if j = 1 then (if k' = 0 then oplus s.ctrlXor (s.dsumAt 0 i) r else s.dsumAt k' i)
        else if k' = 1 then oplus s.ctrlXor (s.dsumAt 1 i) r
        else if k' = 0 then
          oplus s.ctrlXor (s.dsumAt 0 i) (oplus s.ctrlXor (s.dsumAt 1 i) r)
        else s.dsumAt k' i
      else s.dsumAt k' i' := by
  by_cases h1 : j = 1
  · subst h1
    have h0 : min 1 (Config.D - 1) - 1 = 0 := rfl
    simp only [accumulate, h0, cascade, setDsum_dsumAt]
    by_cases hi : i = i'
    · subst hi
      by_cases hk : k' = 0
      · subst hk; simp
      · simp [hk, Ne.symm hk]
    · simp [hi]
  · have h0 : min j (Config.D - 1) - 1 = 1 := by simp only [Config.D]; omega
    simp only [accumulate, h0, cascade, setDsum_dsumAt, setDsum_ctrlXor]
    by_cases hi : i = i'
    · subst hi
      by_cases hk : k' = 0
      · subst hk; simp [h1]
      · by_cases hk1 : k' = 1
        · subst hk1; simp [h1]
        · simp [h1, hk, hk1, Ne.symm hk, Ne.symm hk1]
    · simp [hi]

theorem reconstruct_dsumAt (j i : Nat) (r : Word) (s : State) (k' i' : Nat) :
    (reconstruct j i r s).dsumAt k' i' =
      if j = 0 then s.dsumAt k' i' else (accumulate j i r s).dsumAt k' i' := by
  unfold reconstruct
  split <;> rfl

/-- What `OUT.values` holds after a sample is reconstructed (R211, R212). -/
theorem reconstruct_outValueAt (j i : Nat) (r : Word) (s : State) (j' i' : Nat) :
    (reconstruct j i r s).outValueAt j' i' =
      if j = j' ∧ i = i' then
        if j = 0 then r
        else oplus s.ctrlXor (s.outValueAt (j - 1) i) ((accumulate j i r s).dsumAt 0 i)
      else s.outValueAt j' i' := by
  unfold reconstruct
  by_cases hj : j = 0
  · simp only [hj, if_true, setOutValue_outValueAt]
  · obtain ⟨d, h⟩ := accumulate_frame j i r s
    have hx : (accumulate j i r s).ctrlXor = s.ctrlXor := by rw [h]
    have ho : ∀ a b, (accumulate j i r s).outValueAt a b = s.outValueAt a b := by
      intro a b; rw [h]; rfl
    simp only [hj, if_false, setOutValue_outValueAt, hx, ho]

/-! ## Spatial fixup (R214) -/

theorem fixupAt_frame (j i : Nat) (s : State) :
    ∃ o, fixupAt j i s = { s with outValues := o } := by
  unfold fixupAt
  split <;> exact ⟨_, rfl⟩

theorem fixup_frame (n : Nat) (s : State) : ∃ o, fixup n s = { s with outValues := o } := by
  unfold fixup
  generalize places n s.straps.C = ps
  induction ps generalizing s with
  | nil => exact ⟨_, rfl⟩
  | cons p ps ih =>
    obtain ⟨o, h⟩ := ih (fixupAt p.1 p.2 s)
    obtain ⟨o', h'⟩ := fixupAt_frame p.1 p.2 s
    exact ⟨o, by rw [List.foldl_cons, h, h']⟩

theorem mem_places (n c j i : Nat) : (j, i) ∈ places n c ↔ j < n ∧ i < c := by
  simp [places]

theorem places_nodup (n c : Nat) : (places n c).Nodup := by
  unfold places
  rw [List.nodup_flatMap]
  refine ⟨fun j _ => ?_, ?_⟩
  · exact List.Nodup.map (fun a b h => by simpa using h) List.nodup_range
  · refine List.Nodup.pairwise_of_forall_ne List.nodup_range fun a _ b _ hab => ?_
    intro x ha hb
    simp only [List.mem_map, List.mem_range] at ha hb
    obtain ⟨p, -, rfl⟩ := ha
    obtain ⟨q, -, hq⟩ := hb
    simp only [Prod.mk.injEq] at hq
    exact hab hq.1.symm

/-! ## Values section (R292, R293) -/

theorem rebuildChannel_frame (i j : Nat) (zs : List U64) (s t : State)
    (h : rebuildChannel i j zs s = .ok t) :
    ∃ d o, t = { s with dsum := d, outValues := o } := by
  induction zs generalizing j s with
  | nil => cases h; exact ⟨_, _, rfl⟩
  | cons z zs ih =>
    unfold rebuildChannel at h
    split at h
    · cases h
    · obtain ⟨d, o, hr⟩ := reconstruct_frame j i (zzDec (z.setWidth 32)) s
      obtain ⟨d', o', ht⟩ := ih _ _ h
      exact ⟨d', o', by rw [ht, hr]⟩

theorem parseS8_frame (B : List Byte) (n : Nat) (is : List Nat) (s t : State) (pos pos' : Nat)
    (h : parseS8 B n is s pos = .ok (t, pos')) :
    ∃ d o, t = { s with dsum := d, outValues := o } := by
  induction is generalizing s pos with
  | nil => cases h; exact ⟨_, _, rfl⟩
  | cons i is ih =>
    unfold parseS8 at h
    split at h
    · cases h
    · split at h
      · cases h
      · rename_i s' hs
        obtain ⟨d, o, hr⟩ := rebuildChannel_frame _ _ _ _ _ hs
        obtain ⟨d', o', ht⟩ := ih _ _ h
        exact ⟨d', o', by rw [ht, hr]⟩

theorem parseVarint_frame (B : List Byte) (ps : List (Nat × Nat)) (s t : State) (pos pos' : Nat)
    (h : parseVarint B ps s pos = .ok (t, pos')) :
    ∃ d o, t = { s with dsum := d, outValues := o } := by
  induction ps generalizing s pos with
  | nil => cases h; exact ⟨_, _, rfl⟩
  | cons p ps ih =>
    unfold parseVarint at h
    split at h
    · cases h
    · rename_i r used _
      obtain ⟨d, o, hr⟩ := reconstruct_frame p.1 p.2 r s
      obtain ⟨d', o', ht⟩ := ih _ _ h
      exact ⟨d', o', by rw [ht, hr]⟩

/-- The values section writes `DSUM` and `OUT.values` and nothing else. -/
theorem parseValues_frame (B : List Byte) (n : Nat) (s t : State) (pos : Nat)
    (h : parseValues B n s = .ok (t, pos)) : ∃ d o, t = { s with dsum := d, outValues := o } := by
  unfold parseValues at h
  split at h
  · exact parseS8_frame _ _ _ _ _ _ _ h
  · exact parseVarint_frame _ _ _ _ _ _ h

/-! ## Quality section (R240, R295) -/

theorem fillQuality_frame (i : Nat) (q : Word) (js : List Nat) (s : State) :
    ∃ o, fillQuality i q js s = { s with outQuality := o } := by
  induction js generalizing s with
  | nil => exact ⟨_, rfl⟩
  | cons j js ih =>
    obtain ⟨o, h⟩ := ih (s.setOutQuality j i q)
    exact ⟨o, by rw [fillQuality, h]; rfl⟩

theorem fillQuality_outQualityAt (i : Nat) (q : Word) (js : List Nat) (s : State) (j' i' : Nat) :
    (fillQuality i q js s).outQualityAt j' i' =
      if i = i' ∧ j' ∈ js then q else s.outQualityAt j' i' := by
  induction js generalizing s with
  | nil => simp [fillQuality]
  | cons j js ih =>
    rw [fillQuality, ih, setOutQuality_outQualityAt]
    by_cases hi : i = i'
    · by_cases hm : j' ∈ js
      · simp [hi, hm]
      · simp [hi, hm, eq_comm]
    · simp [hi]

theorem expandRuns_frame (B : List Byte) (i n fuel cur : Nat) (s t : State) (pos pos' : Nat)
    (h : expandRuns B i n fuel cur s pos = .ok (t, pos')) :
    ∃ o, t = { s with outQuality := o } := by
  induction fuel generalizing cur s pos with
  | zero => cases h; exact ⟨_, rfl⟩
  | succ fuel ih =>
    unfold expandRuns at h
    split at h
    · cases h; exact ⟨_, rfl⟩
    · split at h
      · cases h
      · rename_i value length p _
        split at h
        · cases h
        · obtain ⟨o, hf⟩ := fillQuality_frame i value (fillIndices s.straps cur length.toNat)
            (s.setOutQuality cur i value)
          obtain ⟨o', ht⟩ := ih _ _ _ h
          exact ⟨o', by rw [ht, hf]; rfl⟩

/-- The quality section writes `OUT.quality` and nothing else. -/
theorem expandAll_frame (B : List Byte) (n : Nat) (is : List Nat) (s t : State) (pos pos' : Nat)
    (h : expandAll B n is s pos = .ok (t, pos')) : ∃ o, t = { s with outQuality := o } := by
  induction is generalizing s pos with
  | nil => cases h; exact ⟨_, rfl⟩
  | cons i is ih =>
    unfold expandAll at h
    split at h
    · cases h
    · rename_i s' pos1 hs
      obtain ⟨o, hr⟩ := expandRuns_frame _ _ _ _ _ _ _ _ _ hs
      obtain ⟨o', ht⟩ := ih _ _ h
      exact ⟨o', by rw [ht, hr]⟩

/-- The parser writes the decode side and nothing else (46_message_decode.md R290). -/
theorem parsePayload_frame (B : List Byte) (n : Nat) (s t : State) (pos : Nat)
    (h : parsePayload B n s = .ok (t, pos)) :
    ∃ d o q, t = { s with dsum := d, outValues := o, outQuality := q } := by
  unfold parsePayload at h
  split at h
  · cases h
  · rename_i s' p hs
    obtain ⟨d, o, hv⟩ := parseValues_frame _ _ _ _ _ hs
    obtain ⟨o', hf⟩ := fixup_frame n s'
    obtain ⟨q, hq⟩ := expandAll_frame _ _ _ _ _ _ _ h
    exact ⟨d, o', q, by rw [hq, hf, hv]⟩

/-! ## The canonical form -/

theorem wf_cascade (i n : Nat) {s : State} (h : Memory.wf s = true) :
    Memory.wf (cascade i n s) = true := by
  induction n generalizing s with
  | zero => exact h
  | succ n ih => exact ih (wf_setDsum _ _ _ h)

theorem wf_reconstruct (j i : Nat) (r : Word) {s : State} (h : Memory.wf s = true) :
    Memory.wf (reconstruct j i r s) = true := by
  unfold reconstruct
  split
  · exact wf_setOutValue _ _ _ h
  · exact wf_setOutValue _ _ _ (wf_cascade _ _ (wf_setDsum _ _ _ h))

theorem wf_fixup (n : Nat) {s : State} (h : Memory.wf s = true) : Memory.wf (fixup n s) = true := by
  unfold fixup
  generalize places n s.straps.C = ps
  induction ps generalizing s with
  | nil => exact h
  | cons p ps ih =>
    refine ih ?_
    show Memory.wf (fixupAt p.1 p.2 s) = true
    unfold fixupAt
    split
    · exact wf_setOutValue _ _ _ h
    · exact h

theorem wf_rebuildChannel (i j : Nat) (zs : List U64) {s t : State} (h : Memory.wf s = true)
    (hr : rebuildChannel i j zs s = .ok t) : Memory.wf t = true := by
  induction zs generalizing j s with
  | nil => cases hr; exact h
  | cons z zs ih =>
    unfold rebuildChannel at hr
    split at hr
    · cases hr
    · exact ih _ (wf_reconstruct _ _ _ h) hr

theorem wf_parseS8 (B : List Byte) (n : Nat) (is : List Nat) {s t : State} {p pos : Nat}
    (h : Memory.wf s = true) (hp : parseS8 B n is s p = .ok (t, pos)) : Memory.wf t = true := by
  induction is generalizing s p with
  | nil => cases hp; exact h
  | cons i is ih =>
    unfold parseS8 at hp
    split at hp
    · cases hp
    · split at hp
      · cases hp
      · rename_i hs
        exact ih (wf_rebuildChannel _ _ _ h hs) hp

theorem wf_parseVarint (B : List Byte) (ps : List (Nat × Nat)) {s t : State} {p pos : Nat}
    (h : Memory.wf s = true) (hp : parseVarint B ps s p = .ok (t, pos)) : Memory.wf t = true := by
  induction ps generalizing s p with
  | nil => cases hp; exact h
  | cons q ps ih =>
    unfold parseVarint at hp
    split at hp
    · cases hp
    · exact ih (wf_reconstruct _ _ _ h) hp

theorem wf_parseValues (B : List Byte) (n : Nat) {s t : State} {pos : Nat} (h : Memory.wf s = true)
    (hp : parseValues B n s = .ok (t, pos)) : Memory.wf t = true := by
  unfold parseValues at hp
  split at hp
  · exact wf_parseS8 _ _ _ h hp
  · exact wf_parseVarint _ _ h hp

theorem wf_fillQuality (i : Nat) (q : Word) (js : List Nat) {s : State} (h : Memory.wf s = true) :
    Memory.wf (fillQuality i q js s) = true := by
  induction js generalizing s with
  | nil => exact h
  | cons j js ih => exact ih (wf_setOutQuality _ _ _ h)

theorem wf_expandRuns (B : List Byte) (i n fuel cur : Nat) {s t : State} {pos pos' : Nat}
    (h : Memory.wf s = true) (he : expandRuns B i n fuel cur s pos = .ok (t, pos')) :
    Memory.wf t = true := by
  induction fuel generalizing cur s pos with
  | zero => cases he; exact h
  | succ fuel ih =>
    unfold expandRuns at he
    split at he
    · cases he; exact h
    · split at he
      · cases he
      · split at he
        · cases he
        · exact ih _ (wf_fillQuality _ _ _ (wf_setOutQuality _ _ _ h)) he

theorem wf_expandAll (B : List Byte) (n : Nat) (is : List Nat) {s t : State} {pos pos' : Nat}
    (h : Memory.wf s = true) (he : expandAll B n is s pos = .ok (t, pos')) :
    Memory.wf t = true := by
  induction is generalizing s pos with
  | nil => cases he; exact h
  | cons i is ih =>
    unfold expandAll at he
    split at he
    · cases he
    · rename_i hs
      exact ih (wf_expandRuns _ _ _ _ _ h hs) he

theorem wf_parsePayload (B : List Byte) (n : Nat) {s t : State} {pos : Nat} (h : Memory.wf s = true)
    (hp : parsePayload B n s = .ok (t, pos)) : Memory.wf t = true := by
  unfold parsePayload at hp
  split at hp
  · cases hp
  · rename_i hs
    exact wf_expandAll _ _ _ (wf_fixup _ (wf_parseValues _ _ h hs)) hp

end Sys2Proof.Machine
end

