-- ==== Sys2Proof/Laws/Encode.lean ====
section
/-! SUPPORT. What the shared operations of the encode side can do, each said once: predictor, quality push,
flush, sample, finalise. -/

namespace Sys2Proof.Machine

/-! ## Predictor (43_predictor.md R201 to R203) -/

/-- Saving the deltas of channel `i` writes `PREV[1 .. n][i]` and nothing else. -/
theorem saveDeltas_prevAt (old : State) (i : Nat) (v : Word) (n : Nat) (s : State) (k' i' : Nat) :
    (saveDeltas old i v n s).prevAt k' i' =
      if i = i' ∧ 1 ≤ k' ∧ k' ≤ n then delta old i v (k' - 1) else s.prevAt k' i' := by
  induction n with
  | zero => rw [if_neg (by omega)]; rfl
  | succ n ih =>
    rw [saveDeltas, setPrev_prevAt, ih]
    by_cases hi : i = i'
    · subst hi
      by_cases hk : n + 1 = k'
      · subst hk; simp
      · have : (1 ≤ k' ∧ k' ≤ n) ↔ (1 ≤ k' ∧ k' ≤ n + 1) := by omega
        simp [hk, this]
    · simp [hi]

theorem saveDeltas_frame (old : State) (i : Nat) (v : Word) (n : Nat) (s : State) :
    ∃ p, saveDeltas old i v n s = { s with prev := p } := by
  induction n with
  | zero => exact ⟨_, rfl⟩
  | succ n ih =>
    obtain ⟨p, hp⟩ := ih
    exact ⟨p.putOr 0 (n + 1, i) (delta old i v n), by rw [saveDeltas, hp]; rfl⟩

theorem savePrev_frame (j i : Nat) (v : Word) (s : State) :
    ∃ p, savePrev j i v s = { s with prev := p } := by
  obtain ⟨p, hp⟩ := saveDeltas_frame s i v (min j (Config.D - 1)) (s.setPrev 0 i v)
  exact ⟨p, by rw [savePrev, hp]; rfl⟩

/-- What one channel's predictor leaves in `PREV` (R202, R203). -/
theorem savePrev_prevAt (j i : Nat) (v : Word) (s : State) (k' i' : Nat) :
    (savePrev j i v s).prevAt k' i' =
      if i = i' ∧ k' = 0 then v
      else if i = i' ∧ k' ≤ min j (Config.D - 1) then delta s i v (k' - 1) else s.prevAt k' i' := by
  rw [savePrev, saveDeltas_prevAt, setPrev_prevAt]
  by_cases hi : i = i'
  · by_cases hk : k' = 0
    · subst hk; simp [hi]
    · have : 1 ≤ k' := by omega
      have : ¬(0 = k') := by omega
      simp [*]
  · simp [hi]

/-- The reads a delta of channel `i` makes are of `CTRL.XOR` and of `PREV[·][i]`. -/
theorem delta_congr {s t : State} {i : Nat} (hx : t.ctrlXor = s.ctrlXor)
    (hp : ∀ k, t.prevAt k i = s.prevAt k i) (v : Word) (k : Nat) : delta t i v k = delta s i v k := by
  induction k with
  | zero => simp [delta, hx, hp]
  | succ k ih => simp [delta, hx, hp, ih]

theorem residual_congr {s t : State} {i : Nat} (hx : t.ctrlXor = s.ctrlXor)
    (hp : ∀ k, t.prevAt k i = s.prevAt k i) (j : Nat) (v : Word) :
    residual t j i v = residual s j i v := by
  simp [residual, delta_congr hx hp]

theorem spatial_congr {s t : State} (h : t.sref = s.sref) (values : List Word) (i : Nat) :
    spatial values t i = spatial values s i := by
  have hr : t.srefAt = s.srefAt := by funext k; simp only [State.srefAt, h]
  have hh : hasRef t i = hasRef s i := by simp only [hasRef, hr]
  unfold spatial
  rw [hh, hr]

theorem predict_frame (values : List Word) (j : Nat) (is : List Nat) (s : State) :
    ∃ p r, (predict values j is s).1 = { s with prev := p, res := r } := by
  induction is generalizing s with
  | nil => exact ⟨_, _, rfl⟩
  | cons i is ih =>
    obtain ⟨q, hq⟩ := savePrev_frame j i (spatial values s i) s
    obtain ⟨p, r, h⟩ := ih ((savePrev j i (spatial values s i) s).setRes i j
      (residual s j i (spatial values s i)))
    exact ⟨p, r, by rw [predict]; simp only; rw [h, hq]; rfl⟩

/-- The step of `predict` on its first channel, as seen from another channel. -/
theorem predictOne_other (values : List Word) (j i i' : Nat) (s : State) (h : i ≠ i') :
    let t := (savePrev j i (spatial values s i) s).setRes i j (residual s j i (spatial values s i))
    t.ctrlXor = s.ctrlXor ∧ t.sref = s.sref ∧ (∀ k, t.prevAt k i' = s.prevAt k i') ∧
      ∀ j', t.resAt i' j' = s.resAt i' j' := by
  obtain ⟨p, hp⟩ := savePrev_frame j i (spatial values s i) s
  refine ⟨by rw [setRes_ctrlXor, hp], by rw [setRes_sref, hp], fun k => ?_, fun j' => ?_⟩
  · rw [setRes_prevAt, savePrev_prevAt]; simp [h]
  · rw [setRes_resAt, if_neg (by simp [h]), hp]; rfl

/-- The residuals of a sample (R200): channels do not interact. -/
theorem predict_residuals (values : List Word) (j : Nat) (is : List Nat) (s : State)
    (hd : is.Nodup) :
    (predict values j is s).2 = is.map fun i => residual s j i (spatial values s i) := by
  induction is generalizing s with
  | nil => rfl
  | cons i is ih =>
    rw [List.nodup_cons] at hd
    simp only [predict, List.map_cons, ih _ hd.2]
    congr 1
    refine List.map_congr_left fun i' hi' => ?_
    have hne : i ≠ i' := fun e => hd.1 (e ▸ hi')
    obtain ⟨hx, hs, hp, -⟩ := predictOne_other values j i i' s hne
    rw [spatial_congr hs, residual_congr hx hp]

/-- What the predictor leaves in `PREV` after a sample (R202, R203). -/
theorem predict_prevAt (values : List Word) (j : Nat) (is : List Nat) (s : State) (hd : is.Nodup)
    (k' i' : Nat) :
    (predict values j is s).1.prevAt k' i' =
      if i' ∈ is ∧ k' = 0 then spatial values s i'
      else if i' ∈ is ∧ k' ≤ min j (Config.D - 1) then delta s i' (spatial values s i') (k' - 1)
      else s.prevAt k' i' := by
  induction is generalizing s with
  | nil => simp [predict]
  | cons i is ih =>
    rw [List.nodup_cons] at hd
    simp only [predict, ih _ hd.2]
    by_cases hne : i = i'
    · subst hne
      simp only [hd.1, false_and, if_false, setRes_prevAt, savePrev_prevAt, true_and,
        List.mem_cons, true_or]
    · obtain ⟨hx, hs, hp, -⟩ := predictOne_other values j i i' s hne
      have hm : (i' ∈ i :: is) ↔ i' ∈ is := by simp [Ne.symm hne]
      simp only [hm, spatial_congr hs, delta_congr hx hp, hp]

/-- What the predictor leaves in `RES` after a sample (45_message_encode.md R261). -/
theorem predict_resAt (values : List Word) (j : Nat) (is : List Nat) (s : State) (hd : is.Nodup)
    (i' j' : Nat) :
    (predict values j is s).1.resAt i' j' =
      if i' ∈ is ∧ j = j' then residual s j i' (spatial values s i') else s.resAt i' j' := by
  induction is generalizing s with
  | nil => simp [predict]
  | cons i is ih =>
    rw [List.nodup_cons] at hd
    simp only [predict, ih _ hd.2]
    by_cases hne : i = i'
    · subst hne
      have hr : (savePrev j i (spatial values s i) s).resAt i j' = s.resAt i j' := by
        obtain ⟨p, hp⟩ := savePrev_frame j i (spatial values s i) s
        rw [hp]; rfl
      simp [hd.1, hr]
    · obtain ⟨hx, hs, hp, hr⟩ := predictOne_other values j i i' s hne
      have hm : (i' ∈ i :: is) ↔ i' ∈ is := by simp [Ne.symm hne]
      simp only [hm, spatial_congr hs, residual_congr hx hp, hr]

/-! ## Quality push and flush (44_quality_rle.md R231, R232, R234) -/

theorem pushQuality_frame (j i : Nat) (q : Word) (s : State) :
    ∃ r c, pushQuality j i q s = { s with run := r, runcnt := c } := by
  unfold pushQuality
  split
  · exact ⟨_, _, rfl⟩
  · simp only
    split <;> exact ⟨_, _, rfl⟩

theorem pushAll_frame (q : List Word) (j : Nat) (is : List Nat) (s : State) :
    ∃ r c, pushAll q j is s = { s with run := r, runcnt := c } := by
  induction is generalizing s with
  | nil => exact ⟨_, _, rfl⟩
  | cons i is ih =>
    obtain ⟨r, c, h⟩ := pushQuality_frame j i (elem q i) s
    obtain ⟨r', c', h'⟩ := ih (pushQuality j i (elem q i) s)
    exact ⟨r', c', by rw [pushAll, h', h]⟩

/-- A push on channel `i` reads and writes the run vector of channel `i` only. -/
theorem pushQuality_other (j i : Nat) (q : Word) (s : State) {i' : Nat} (h : i ≠ i') :
    (pushQuality j i q s).runcntAt i' = s.runcntAt i' ∧
      ∀ r, (pushQuality j i q s).runAt i' r = s.runAt i' r := by
  unfold pushQuality
  split
  · simp [h]
  · simp only
    split <;> simp [h]

theorem pushQuality_congr {s t : State} {i : Nat} (hc : t.runcntAt i = s.runcntAt i)
    (hr : ∀ r, t.runAt i r = s.runAt i r) (j : Nat) (q : Word) :
    (pushQuality j i q t).runcntAt i = (pushQuality j i q s).runcntAt i ∧
      ∀ r, (pushQuality j i q t).runAt i r = (pushQuality j i q s).runAt i r := by
  unfold pushQuality
  rw [hc]
  by_cases hj : j = 0
  · simp [hj, hr]
  · by_cases hv : (s.runAt i (s.runcntAt i - 1)).value = q <;> simp [hj, hr, hv, hc]

/-- What the pushes of a sample leave in the run vectors: on a channel of the list, one push; on any other,
nothing (R230: channels are independent). -/
theorem pushAll_runs (q : List Word) (j : Nat) (is : List Nat) (s : State) (hd : is.Nodup) (i' : Nat) :
    let t := if i' ∈ is then pushQuality j i' (elem q i') s else s
    (pushAll q j is s).runcntAt i' = t.runcntAt i' ∧
      ∀ r, (pushAll q j is s).runAt i' r = t.runAt i' r := by
  induction is generalizing s with
  | nil => simp [pushAll]
  | cons i is ih =>
    rw [List.nodup_cons] at hd
    have := ih (pushQuality j i (elem q i) s) hd.2
    by_cases hne : i = i'
    · subst hne
      simpa [pushAll, hd.1] using this
    · obtain ⟨hc, hr⟩ := pushQuality_other j i (elem q i) s hne
      by_cases hm : i' ∈ is
      · obtain ⟨hc', hr'⟩ := pushQuality_congr hc hr j (elem q i')
        simp only [hm, if_true] at this
        simp only [pushAll, List.mem_cons, hm, or_true, if_true, this.1, this.2, hc', hr']
        simp
      · simp only [hm, if_false] at this
        simp only [pushAll, List.mem_cons, hm, Ne.symm hne, or_false, if_false, this.1, this.2, hc, hr]
        simp

theorem flushRuns_frame (is : List Nat) (s : State) :
    ∃ r, flushRuns is s = { s with run := r } := by
  induction is generalizing s with
  | nil => exact ⟨_, rfl⟩
  | cons i is ih =>
    obtain ⟨r, h⟩ := ih (flushRun i s)
    exact ⟨r, by rw [flushRuns, h]; rfl⟩

/-- What a flush leaves in the run vectors: the last live run of every channel of the list has length 0
(R234). -/
theorem flushRuns_runAt (is : List Nat) (s : State) (i' r' : Nat) :
    (flushRuns is s).runAt i' r' =
      if i' ∈ is ∧ r' = s.runcntAt i' - 1 then ⟨(s.runAt i' r').value, 0⟩ else s.runAt i' r' := by
  induction is generalizing s with
  | nil => simp [flushRuns]
  | cons i is ih =>
    rw [flushRuns, ih]
    have hc : (flushRun i s).runcntAt i' = s.runcntAt i' := rfl
    rw [hc, flushRun, setRun_runAt]
    by_cases hi : i = i'
    · subst hi
      by_cases hr : s.runcntAt i - 1 = r'
      · subst hr; simp
      · simp [hr, Ne.symm hr]
    · simp [hi, Ne.symm hi]

/-! ## A sample, and the end of a message (45_message_encode.md R261, R262) -/

theorem takeSample_frame (v q : List Word) (s : State) :
    ∃ p r u c, (takeSample v q s).1 =
      { s with prev := p, res := r, run := u, runcnt := c, j := s.j + 1, estate := .accum } := by
  obtain ⟨p, r, hp⟩ := predict_frame v s.j (List.range s.straps.C) s
  obtain ⟨u, c, hq⟩ := pushAll_frame q s.j (List.range s.straps.C)
    (predict v s.j (List.range s.straps.C) s).1
  exact ⟨p, r, u, c, by unfold takeSample; simp only; rw [hq, hp]; rfl⟩

@[simp] theorem takeSample_j (v q : List Word) (s : State) : (takeSample v q s).1.j = s.j + 1 := by
  obtain ⟨p, r, u, c, h⟩ := takeSample_frame v q s
  rw [h]

/-- The residuals that `ESAMP` answers (R261). -/
theorem takeSample_residuals (v q : List Word) (s : State) :
    (takeSample v q s).2 =
      (List.range s.straps.C).map fun i => residual s s.j i (spatial v s i) :=
  predict_residuals v s.j _ s List.nodup_range

theorem takeSample_prevAt (v q : List Word) (s : State) (k i : Nat) :
    (takeSample v q s).1.prevAt k i =
      if i < s.straps.C ∧ k = 0 then spatial v s i
      else if i < s.straps.C ∧ k ≤ min s.j (Config.D - 1) then delta s i (spatial v s i) (k - 1)
      else s.prevAt k i := by
  obtain ⟨u, c, hq⟩ := pushAll_frame q s.j (List.range s.straps.C)
    (predict v s.j (List.range s.straps.C) s).1
  have h := predict_prevAt v s.j (List.range s.straps.C) s List.nodup_range k i
  simp only [List.mem_range] at h
  rw [← h]
  unfold takeSample
  simp only [setEstate_prevAt, setJ_prevAt]
  rw [hq]; rfl

theorem takeSample_resAt (v q : List Word) (s : State) (i j : Nat) :
    (takeSample v q s).1.resAt i j =
      if i < s.straps.C ∧ s.j = j then residual s s.j i (spatial v s i) else s.resAt i j := by
  obtain ⟨u, c, hq⟩ := pushAll_frame q s.j (List.range s.straps.C)
    (predict v s.j (List.range s.straps.C) s).1
  have h := predict_resAt v s.j (List.range s.straps.C) s List.nodup_range i j
  simp only [List.mem_range] at h
  rw [← h]
  unfold takeSample
  simp only [setEstate_resAt, setJ_resAt]
  rw [hq]; rfl

theorem takeSample_runs (v q : List Word) (s : State) (i : Nat) :
    let t := if i < s.straps.C then pushQuality s.j i (elem q i) s else s
    (takeSample v q s).1.runcntAt i = t.runcntAt i ∧
      ∀ r, (takeSample v q s).1.runAt i r = t.runAt i r := by
  obtain ⟨p, r, hp⟩ := predict_frame v s.j (List.range s.straps.C) s
  have h := pushAll_runs q s.j (List.range s.straps.C)
    (predict v s.j (List.range s.straps.C) s).1 List.nodup_range i
  have hc : (predict v s.j (List.range s.straps.C) s).1.runcntAt i = s.runcntAt i := by rw [hp]; rfl
  have hr : ∀ r, (predict v s.j (List.range s.straps.C) s).1.runAt i r = s.runAt i r := by
    intro r'; rw [hp]; rfl
  obtain ⟨hc', hr'⟩ := pushQuality_congr hc hr s.j (elem q i)
  simp only [List.mem_range] at h ⊢
  unfold takeSample
  simp only [setEstate_runcntAt, setJ_runcntAt, setEstate_runAt, setJ_runAt]
  refine ⟨h.1.trans ?_, fun r => (h.2 r).trans ?_⟩ <;> split <;> simp [hc, hr, hc', hr']

theorem finalise_frame (s : State) :
    ∃ u, (finalise s).1 =
      { s with prev := [], runcnt := [], j := 0, estate := .idle, run := u } := by
  obtain ⟨u, h⟩ := flushRuns_frame (List.range s.straps.C) (s.setEstate .final)
  exact ⟨u, by unfold finalise; simp only; rw [h]; rfl⟩

theorem finalise_runAt (s : State) (i r : Nat) :
    (finalise s).1.runAt i r =
      if i < s.straps.C ∧ r = s.runcntAt i - 1 then ⟨(s.runAt i r).value, 0⟩ else s.runAt i r := by
  have h := flushRuns_runAt (List.range s.straps.C) (s.setEstate .final) i r
  simp only [List.mem_range, setEstate_runAt, setEstate_runcntAt] at h
  exact h

@[simp] theorem finalise_count (s : State) : (finalise s).2.1 = s.j := rfl

/-- The live runs of channel `i` after a flush, as the quality section writes them: the last length is 0
(R234, R235). -/
def flushedRun (s : State) (i r : Nat) : Run :=
  if r = s.runcntAt i - 1 then ⟨(s.runAt i r).value, 0⟩ else s.runAt i r

/-- The payload that finalising returns, in terms of the state before it (R263 to R265). -/
theorem finalise_payload (s : State) :
    (finalise s).2.2 = valuesSection s s.j ++
      (List.range s.straps.C).flatMap fun i =>
        (List.range (s.runcntAt i)).flatMap fun r => runBytes (flushedRun s i r) := by
  obtain ⟨u, h⟩ := flushRuns_frame (List.range s.straps.C) (s.setEstate .final)
  have hr := flushRuns_runAt (List.range s.straps.C) (s.setEstate .final)
  simp only [List.mem_range, setEstate_runAt, setEstate_runcntAt] at hr
  unfold finalise payloadOf
  simp only
  have hv : valuesSection (flushRuns (List.range s.straps.C) (s.setEstate .final)) s.j =
      valuesSection s s.j := by rw [h]; rfl
  have hq : qualitySection (flushRuns (List.range s.straps.C) (s.setEstate .final)) =
      (List.range s.straps.C).flatMap fun i =>
        (List.range (s.runcntAt i)).flatMap fun r => runBytes (flushedRun s i r) := by
    unfold qualitySection channelQuality
    have hc : ∀ i, (flushRuns (List.range s.straps.C) (s.setEstate .final)).runcntAt i =
        s.runcntAt i := by intro i; rw [h]; rfl
    have hs : (flushRuns (List.range s.straps.C) (s.setEstate .final)).straps = s.straps := by
      rw [h]; rfl
    rw [hs]
    refine List.flatMap_congr fun i hi => ?_
    rw [List.mem_range] at hi
    rw [hc]
    refine List.flatMap_congr fun r _ => ?_
    rw [hr]
    simp [flushedRun, hi]
  rw [hv, hq]

/-! ## The canonical form -/

theorem wf_saveDeltas (old : State) (i : Nat) (v : Word) (n : Nat) {s : State}
    (h : Memory.wf s = true) : Memory.wf (saveDeltas old i v n s) = true := by
  induction n with
  | zero => exact h
  | succ n ih => exact wf_setPrev _ _ _ ih

theorem wf_predict (values : List Word) (j : Nat) (is : List Nat) {s : State}
    (h : Memory.wf s = true) : Memory.wf (predict values j is s).1 = true := by
  induction is generalizing s with
  | nil => exact h
  | cons i is ih => exact ih (wf_setRes _ _ _ (wf_saveDeltas _ _ _ _ (wf_setPrev _ _ _ h)))

theorem wf_pushAll (q : List Word) (j : Nat) (is : List Nat) {s : State} (h : Memory.wf s = true) :
    Memory.wf (pushAll q j is s) = true := by
  induction is generalizing s with
  | nil => exact h
  | cons i is ih =>
    refine ih ?_
    unfold pushQuality
    simp only
    split
    · exact wf_setRuncnt _ _ (wf_setRun _ _ _ h)
    · split
      · exact wf_setRun _ _ _ h
      · exact wf_setRuncnt _ _ (wf_setRun _ _ _ h)

theorem wf_flushRuns (is : List Nat) {s : State} (h : Memory.wf s = true) :
    Memory.wf (flushRuns is s) = true := by
  induction is generalizing s with
  | nil => exact h
  | cons i is ih => exact ih (wf_setRun _ _ _ h)

theorem wf_takeSample (v q : List Word) {s : State} (h : Memory.wf s = true) :
    Memory.wf (takeSample v q s).1 = true :=
  wf_setEstate _ (wf_setJ _ (wf_pushAll _ _ _ (wf_predict _ _ _ h)))

theorem wf_finalise {s : State} (h : Memory.wf s = true) : Memory.wf (finalise s).1 = true :=
  wf_clearMessage (wf_flushRuns _ (wf_setEstate _ h))

end Sys2Proof.Machine
end

