-- ==== Sys2Proof/Laws/PerInstr.lean ====
section
/-! SUPPORT. What every instruction satisfies, one lemma per constructor: the format its encoding has
(30_encoding.md R92, R94, R97, R110). -/

namespace Sys2Proof.Laws

/-- A well-formed command encodes to a packet of the length R94 finds from its header, whose must-be-zero fields
are zero; a Simple8b word row encodes to a word that decodes to it. -/
def EncodedFormat.Statement (i : Instr) : Prop :=
  ∀ c : Nat, i.wf c = true →
    match encode i with
    | .packet p => ∃ op a ws, p = header op a :: ws ∧ p.length = packetLength c op a ∧
        fixedFieldsZero op a = true
    | .s8word w => decodeS8Word w = i

theorem u64Words_length (vs : List U64) : (packU64s vs).length = 2 * vs.length := by
  induction vs with
  | nil => rfl
  | cons v vs ih =>
    have : packU64s (v :: vs) = u64Words v ++ packU64s vs := rfl
    rw [this, List.length_append, ih]
    simp only [u64Words, List.length_cons, List.length_nil]
    omega

theorem packBytes_length (bs : List Byte) : (packBytes bs).length = (bs.length + 3) / 4 := by
  fun_induction packBytes bs <;> simp_all
  omega

theorem fitsArgument_toNat {n : Nat} (h : fitsArgument n = true) :
    (BitVec.ofNat 24 n).toNat = n := by
  simp only [fitsArgument, decide_eq_true_eq] at h
  rw [BitVec.toNat_ofNat, Nat.mod_eq_of_lt h]

theorem selField_s8Word (sel : BitVec 4) (d : BitVec 60) : selField (s8Word sel d) = sel := by
  ext k hk
  simp only [selField, s8Word, BitVec.getElem_extractLsb', BitVec.getLsbD_append]
  rw [if_neg (by omega), Nat.add_sub_cancel_left, BitVec.getLsbD_eq_getElem]

theorem dataField_s8Word (sel : BitVec 4) (d : BitVec 60) : dataField (s8Word sel d) = d := by
  ext k hk
  simp only [dataField, s8Word, BitVec.getElem_extractLsb', BitVec.getLsbD_append]
  simp [hk]

theorem EncodedFormat.setxor (b : Bool) : EncodedFormat.Statement (.setxor b) := by
  intro c _
  cases b <;> exact ⟨_, _, _, rfl, rfl, rfl⟩

theorem EncodedFormat.setsref (i : BitVec 24) (r : Word) : EncodedFormat.Statement (.setsref i r) := by
  intro c _
  exact ⟨_, _, _, rfl, rfl, rfl⟩

theorem EncodedFormat.rdcsr (a : BitVec 24) : EncodedFormat.Statement (.rdcsr a) := by
  intro c _
  exact ⟨_, _, _, rfl, rfl, rfl⟩

theorem EncodedFormat.s8pack (vs : List U64) : EncodedFormat.Statement (.s8pack vs) := by
  intro c h
  refine ⟨_, _, _, rfl, ?_, rfl⟩
  rw [List.length_cons, u64Words_length, packetLength, fitsArgument_toNat h]
  omega

theorem EncodedFormat.s8unpk (ws : List U64) : EncodedFormat.Statement (.s8unpk ws) := by
  intro c h
  refine ⟨_, _, _, rfl, ?_, rfl⟩
  rw [List.length_cons, u64Words_length, packetLength, fitsArgument_toNat h]
  omega

theorem EncodedFormat.s8unpkn (n : Word) (ws : List U64) : EncodedFormat.Statement (.s8unpkn n ws) := by
  intro c h
  refine ⟨_, _, _, rfl, ?_, rfl⟩
  rw [List.length_cons, List.length_cons, u64Words_length, packetLength, fitsArgument_toNat h]
  omega

theorem EncodedFormat.esamp (v q : List Word) : EncodedFormat.Statement (.esamp v q) := by
  intro c h
  simp only [Instr.wf, Bool.and_eq_true, beq_iff_eq] at h
  refine ⟨_, _, _, rfl, ?_, rfl⟩
  rw [List.length_cons, List.length_append, packetLength, h.1, h.2]
  omega

theorem EncodedFormat.eflush : EncodedFormat.Statement .eflush := by
  intro c _
  exact ⟨_, _, _, rfl, rfl, rfl⟩

theorem EncodedFormat.ecancel : EncodedFormat.Statement .ecancel := by
  intro c _
  exact ⟨_, _, _, rfl, rfl, rfl⟩

theorem EncodedFormat.dpay (es : Word) (bs : List Byte) : EncodedFormat.Statement (.dpay es bs) := by
  intro c h
  refine ⟨_, _, _, rfl, ?_, rfl⟩
  rw [List.length_cons, List.length_cons, packBytes_length, packetLength, fitsArgument_toNat h]
  omega

theorem EncodedFormat.rdout (j : BitVec 24) : EncodedFormat.Statement (.rdout j) := by
  intro c _
  exact ⟨_, _, _, rfl, rfl, rfl⟩

theorem EncodedFormat.s8wSel0 (d : BitVec 60) : EncodedFormat.Statement (.s8wSel0 d) := by
  intro c _
  simp [encode, decodeS8Word, selField_s8Word, dataField_s8Word]

theorem EncodedFormat.s8wSel1 (d : BitVec 60) : EncodedFormat.Statement (.s8wSel1 d) := by
  intro c _
  simp [encode, decodeS8Word, selField_s8Word, dataField_s8Word]

theorem EncodedFormat.s8wSel2 (d : BitVec 60) : EncodedFormat.Statement (.s8wSel2 d) := by
  intro c _
  simp [encode, decodeS8Word, selField_s8Word, dataField_s8Word]

theorem EncodedFormat.s8wSel3 (d : BitVec 60) : EncodedFormat.Statement (.s8wSel3 d) := by
  intro c _
  simp [encode, decodeS8Word, selField_s8Word, dataField_s8Word]

theorem EncodedFormat.s8wSel4 (d : BitVec 60) : EncodedFormat.Statement (.s8wSel4 d) := by
  intro c _
  simp [encode, decodeS8Word, selField_s8Word, dataField_s8Word]

theorem EncodedFormat.s8wSel5 (d : BitVec 60) : EncodedFormat.Statement (.s8wSel5 d) := by
  intro c _
  simp [encode, decodeS8Word, selField_s8Word, dataField_s8Word]

theorem EncodedFormat.s8wSel6 (d : BitVec 60) : EncodedFormat.Statement (.s8wSel6 d) := by
  intro c _
  simp [encode, decodeS8Word, selField_s8Word, dataField_s8Word]

theorem EncodedFormat.s8wSel7 (d : BitVec 60) : EncodedFormat.Statement (.s8wSel7 d) := by
  intro c _
  simp [encode, decodeS8Word, selField_s8Word, dataField_s8Word]

theorem EncodedFormat.s8wSel8 (d : BitVec 60) : EncodedFormat.Statement (.s8wSel8 d) := by
  intro c _
  simp [encode, decodeS8Word, selField_s8Word, dataField_s8Word]

theorem EncodedFormat.s8wSel9 (d : BitVec 60) : EncodedFormat.Statement (.s8wSel9 d) := by
  intro c _
  simp [encode, decodeS8Word, selField_s8Word, dataField_s8Word]

theorem EncodedFormat.s8wSel10 (d : BitVec 60) : EncodedFormat.Statement (.s8wSel10 d) := by
  intro c _
  simp [encode, decodeS8Word, selField_s8Word, dataField_s8Word]

theorem EncodedFormat.s8wSel11 (d : BitVec 60) : EncodedFormat.Statement (.s8wSel11 d) := by
  intro c _
  simp [encode, decodeS8Word, selField_s8Word, dataField_s8Word]

theorem EncodedFormat.s8wSel12 (d : BitVec 60) : EncodedFormat.Statement (.s8wSel12 d) := by
  intro c _
  simp [encode, decodeS8Word, selField_s8Word, dataField_s8Word]

theorem EncodedFormat.s8wSel13 (d : BitVec 60) : EncodedFormat.Statement (.s8wSel13 d) := by
  intro c _
  simp [encode, decodeS8Word, selField_s8Word, dataField_s8Word]

theorem EncodedFormat.s8wSel14 (d : BitVec 60) : EncodedFormat.Statement (.s8wSel14 d) := by
  intro c _
  simp [encode, decodeS8Word, selField_s8Word, dataField_s8Word]

theorem EncodedFormat.s8wSel15 (d : BitVec 60) : EncodedFormat.Statement (.s8wSel15 d) := by
  intro c _
  simp [encode, decodeS8Word, selField_s8Word, dataField_s8Word]

end Sys2Proof.Laws
end

