-- ==== Sys2Proof/Laws/Simple8b.lean ====
section
/-! SUPPORT. What a legal selector table is, what the packer's choice is, and how the packing loop goes on, each
said once (42_simple8b.md R161, R165, R166). -/

namespace Sys2Proof.Machine

theorem s8tabLegal_length {tab : List (Nat × Nat)} (h : s8tabLegal tab = true) : tab.length = 16 := by
  simp only [s8tabLegal, Bool.and_eq_true, beq_iff_eq] at h
  exact h.1.1.1

theorem s8tabLegal_rows {tab : List (Nat × Nat)} (h : s8tabLegal tab = true) :
    ∀ r ∈ tab, 1 ≤ r.1 ∧ r.1 * r.2 ≤ 60 := by
  simp only [s8tabLegal, Bool.and_eq_true, List.all_eq_true, decide_eq_true_eq] at h
  exact h.1.1.2

theorem s8tabLegal_last {tab : List (Nat × Nat)} (h : s8tabLegal tab = true) :
    tab.getLast? = some (1, 60) := by
  simp only [s8tabLegal, Bool.and_eq_true, decide_eq_true_eq] at h
  exact h.2

theorem s8Row_of_getElem? {tab : List (Nat × Nat)} {sel : Nat} {row : Nat × Nat}
    (h : tab[sel]? = some row) : s8Row tab sel = row := by
  simp [s8Row, h]

/-- Every row the packer and unpacker look up in a legal table holds 1 value or more, in 60 bits or less. -/
theorem s8Row_legal {tab : List (Nat × Nat)} (h : s8tabLegal tab = true) (sel : Nat) :
    1 ≤ (s8Row tab sel).1 ∧ (s8Row tab sel).1 * (s8Row tab sel).2 ≤ 60 := by
  cases hs : tab[sel]? with
  | none => simp [s8Row, hs]
  | some row =>
    rw [s8Row_of_getElem? hs]
    exact s8tabLegal_rows h row (List.mem_of_getElem? hs)

/-- The last row of a legal table is `(1, 60)`. -/
theorem s8Row_last {tab : List (Nat × Nat)} (h : s8tabLegal tab = true) :
    s8Row tab 15 = (1, 60) := by
  have hl := s8tabLegal_last h
  rw [List.getLast?_eq_getElem?, s8tabLegal_length h] at hl
  exact s8Row_of_getElem? hl

theorem s8UnpackRow_length (tab : List (Nat × Nat)) (sel : Nat) (w : U64) :
    (s8UnpackRow tab sel w).length = (s8Row tab sel).1 := by
  simp [s8UnpackRow]

/-- A choice exists: the last row is a candidate for values below 2^60 (R165). -/
theorem s8Candidate_last {tab : List (Nat × Nat)} (h : s8tabLegal tab = true) {vs : List U64}
    (hne : vs ≠ []) (hv : ∀ v ∈ vs, v.toNat < 2 ^ 60) : s8Candidate tab vs 15 = true := by
  have hpos : 0 < vs.length := List.length_pos_iff.2 hne
  simp only [s8Candidate, s8Row_last h, s8Fits, Bool.and_eq_true, decide_eq_true_eq,
    List.all_eq_true]
  exact ⟨hpos, fun v hm => hv v (List.mem_of_mem_take hm)⟩

/-- The choice is a candidate below 16, and no smaller selector is one (R165). -/
theorem s8Choose_spec {tab : List (Nat × Nat)} (h : s8tabLegal tab = true) {vs : List U64}
    (hne : vs ≠ []) (hv : ∀ v ∈ vs, v.toNat < 2 ^ 60) :
    s8Choose tab vs < 16 ∧ s8Candidate tab vs (s8Choose tab vs) = true ∧
      ∀ sel, sel < s8Choose tab vs → s8Candidate tab vs sel = false := by
  cases hf : (List.range 16).find? (s8Candidate tab vs) with
  | none =>
    rw [List.find?_eq_none] at hf
    exact absurd (s8Candidate_last h hne hv) (hf 15 (by simp))
  | some sel =>
    have hc : s8Choose tab vs = sel := by simp [s8Choose, hf]
    rw [hc]
    rw [List.find?_range_eq_some] at hf
    refine ⟨by simpa using hf.2.1, hf.1, fun k hk => ?_⟩
    simpa using hf.2.2 k hk

/-- The packing loop does not depend on its fuel, once that covers the values. -/
theorem s8PackUpTo_fuel {tab : List (Nat × Nat)} (h : s8tabLegal tab = true) (f g : Nat)
    (vs : List U64) (hf : vs.length ≤ f) (hg : vs.length ≤ g) :
    s8PackUpTo tab f vs = s8PackUpTo tab g vs := by
  induction f generalizing g vs with
  | zero =>
    have : vs = [] := by simpa using hf
    subst this
    cases g <;> rfl
  | succ f ih =>
    cases vs with
    | nil => cases g <;> rfl
    | cons v vs =>
      cases g with
      | zero => simp at hg
      | succ g =>
        have hn := (s8Row_legal h (s8Choose tab (v :: vs))).1
        simp only [List.length_cons] at hf hg
        simp only [s8PackUpTo]
        rw [ih g _ (by simp only [List.length_drop, List.length_cons]; omega)
          (by simp only [List.length_drop, List.length_cons]; omega)]

/-- One round of the packing loop (R166). -/
theorem s8PackWords_cons {tab : List (Nat × Nat)} (h : s8tabLegal tab = true) {vs : List U64}
    (hne : vs ≠ []) :
    s8PackWords tab vs =
      s8PackWord tab (s8Choose tab vs) (vs.take (s8Row tab (s8Choose tab vs)).1) ::
        s8PackWords tab (vs.drop (s8Row tab (s8Choose tab vs)).1) := by
  cases vs with
  | nil => exact absurd rfl hne
  | cons v vs =>
    have hn := (s8Row_legal h (s8Choose tab (v :: vs))).1
    have hl : ((v :: vs).drop (s8Row tab (s8Choose tab (v :: vs))).1).length ≤ vs.length := by
      simp only [List.length_drop, List.length_cons]; omega
    show s8PackUpTo tab (vs.length + 1) (v :: vs) = _
    simp only [s8PackUpTo]
    rw [s8PackUpTo_fuel h _ _ _ hl (Nat.le_refl _)]
    rfl

end Sys2Proof.Machine
end

