-- ==== Sys2Proof/Tests/Slice0.lean ====
section
/-! SUPPORT. The implementer's own tests: ill-formed terms refused, decoding of words written out from the spec's
encodings, one-step tests with the results of spec/95_test_vectors.md, and for every statement with hypotheses
a witness that meets them (`witness_<Name>`). -/

namespace Sys2Proof.Tests

open Sys2Proof Sys2Proof.Machine

/- The tests are elaborated one after another: each `decide +kernel` waits for the kernel to have checked
everything before it, and elaborated in parallel every such waiting test keeps a thread with a stack of its own. -/
set_option Elab.async false

/-! ## Helpers -/

/-- Straps of a small block. -/
def strapsOf (c n : Nat) (fill : QFill) : Straps := ⟨⟨c, n, 4000#32⟩, ⟨s8tabDefault, fill⟩⟩

/-- A block of `c` channels and `n` samples per message, just out of reset. -/
def block (c n : Nat) : State := State.resetOf (strapsOf c n .abs) [] [] 0 0

/-- One item presented to a block. -/
def given (s : State) (e : Encoded) : State := { s with port := [.command e] }

/-- The block after one packet. -/
def after (s : State) (p : Packet) : Option State :=
  match step (given s (.packet p)) with
  | .next t => some t
  | _ => none

/-- The response to one packet. -/
def reply (s : State) (p : Packet) : Option Packet := (after s p).bind fun t => t.responses.getLast?

/-- The response to one bare Simple8b word. -/
def replyWord (s : State) (w : U64) : Option Packet :=
  match step (given s (.s8word w)) with
  | .next t => t.responses.getLast?
  | _ => none

/-- A block in the middle of its first message: `C = 2`, `N = 4`, the first sample of program P1 fed. -/
def midMessage : State :=
  { block 2 4 with
    j := 1, estate := .accum, prev := [((0, 0), 1000#32), ((0, 1), 0xFFFFFFCE#32)]
    res := [((0, 0), 1000#32), ((1, 0), 0xFFFFFFCE#32)]
    run := [((0, 0), ⟨0, 1⟩), ((1, 0), ⟨0, 1⟩)], runcnt := [((0, 0), 1), ((0, 1), 1)] }

/-- A sample of two channels. -/
def sampleA : Sample := ([1000#32, 0xFFFFFFCE#32], [0, 0])

/-- Another sample of two channels. -/
def sampleB : Sample := ([1010#32, 0xFFFFFFCC#32], [0, 7])

/-! ## Well-formedness: an ill-formed term for each check (R91, R92) -/

theorem tooMany {α : Type} (v : α) (n : Nat) (h : 2 ^ 24 ≤ n) :
    fitsArgument (List.replicate n v).length = false := by
  simp only [fitsArgument, List.length_replicate, decide_eq_false_iff_not, Nat.not_lt]
  exact h

theorem test_wf_s8pack_refused : Instr.wf 2 (.s8pack (List.replicate (2 ^ 24) 0)) = false :=
  tooMany _ _ (Nat.le_refl _)

theorem test_wf_s8unpk_refused : Instr.wf 2 (.s8unpk (List.replicate (2 ^ 24) 0)) = false :=
  tooMany _ _ (Nat.le_refl _)

theorem test_wf_s8unpkn_refused : Instr.wf 2 (.s8unpkn 1 (List.replicate (2 ^ 24) 0)) = false :=
  tooMany _ _ (Nat.le_refl _)

theorem test_wf_dpay_refused : Instr.wf 2 (.dpay 1 (List.replicate (2 ^ 24) 0)) = false :=
  tooMany _ _ (Nat.le_refl _)

theorem test_wf_esamp_values_refused : Instr.wf 2 (.esamp [1, 2, 3] [1, 2]) = false := by decide

theorem test_wf_esamp_quality_refused : Instr.wf 2 (.esamp [1, 2] [1]) = false := by decide

/-! ## Decoding: every constructor from a word written out from the spec's encoding (R92, R97) -/

theorem test_decode_setxor :
    decode 2 (.packet [0x01000001#32]) =
      .ok (.setxor true) := by rfl

theorem test_decode_setsref :
    decode 2 (.packet [0x02000001#32, 0xFFFFFFFF#32]) =
      .ok (.setsref 1#24 0xFFFFFFFF#32) := by rfl

theorem test_decode_rdcsr :
    decode 2 (.packet [0x03010008#32]) =
      .ok (.rdcsr 0x010008#24) := by rfl

theorem test_decode_s8pack :
    decode 2 (.packet [0x10000001#32, 0x0FFFFFFF#32, 0xFFFFFFFE#32]) =
      .ok (.s8pack [0x0FFFFFFFFFFFFFFE#64]) := by rfl

theorem test_decode_s8unpk :
    decode 2 (.packet [0x11000001#32, 0xE0000000#32, 0x80000001#32]) =
      .ok (.s8unpk [0xE000000080000001#64]) := by rfl

theorem test_decode_s8unpkn :
    decode 2 (.packet [0x12000002#32, 2#32, 0xD0000300#32, 0x00200001#32, 0xF0000000#32, 9#32]) =
      .ok (.s8unpkn 2#32 [0xD000030000200001#64, 0xF000000000000009#64]) := by rfl

theorem test_decode_esamp :
    decode 2 (.packet [0x20000000#32, 1#32, 2#32, 3#32, 4#32]) =
      .ok (.esamp [1#32, 2#32] [3#32, 4#32]) := by rfl

theorem test_decode_eflush :
    decode 2 (.packet [0x21000000#32]) =
      .ok (.eflush) := by rfl

theorem test_decode_ecancel :
    decode 2 (.packet [0x22000000#32]) =
      .ok (.ecancel) := by rfl

theorem test_decode_dpay :
    decode 2 (.packet [0x30000006#32, 0xFFFFFFFF#32, 0x01020304#32, 0x05060708#32]) =
      .ok (.dpay 0xFFFFFFFF#32 [1#8, 2#8, 3#8, 4#8, 5#8, 6#8]) := by rfl

theorem test_decode_rdout :
    decode 2 (.packet [0x31ABCDEF#32]) =
      .ok (.rdout 0xABCDEF#24) := by rfl

theorem test_decode_s8wSel0 :
    decode 2 (.s8word 0x0123456789ABCDEF#64) = .ok (.s8wSel0 0x123456789ABCDEF#60) := by rfl

theorem test_decode_s8wSel1 :
    decode 2 (.s8word 0x1123456789ABCDEF#64) = .ok (.s8wSel1 0x123456789ABCDEF#60) := by rfl

theorem test_decode_s8wSel2 :
    decode 2 (.s8word 0x2123456789ABCDEF#64) = .ok (.s8wSel2 0x123456789ABCDEF#60) := by rfl

theorem test_decode_s8wSel3 :
    decode 2 (.s8word 0x3123456789ABCDEF#64) = .ok (.s8wSel3 0x123456789ABCDEF#60) := by rfl

theorem test_decode_s8wSel4 :
    decode 2 (.s8word 0x4123456789ABCDEF#64) = .ok (.s8wSel4 0x123456789ABCDEF#60) := by rfl

theorem test_decode_s8wSel5 :
    decode 2 (.s8word 0x5123456789ABCDEF#64) = .ok (.s8wSel5 0x123456789ABCDEF#60) := by rfl

theorem test_decode_s8wSel6 :
    decode 2 (.s8word 0x6123456789ABCDEF#64) = .ok (.s8wSel6 0x123456789ABCDEF#60) := by rfl

theorem test_decode_s8wSel7 :
    decode 2 (.s8word 0x7123456789ABCDEF#64) = .ok (.s8wSel7 0x123456789ABCDEF#60) := by rfl

theorem test_decode_s8wSel8 :
    decode 2 (.s8word 0x8123456789ABCDEF#64) = .ok (.s8wSel8 0x123456789ABCDEF#60) := by rfl

theorem test_decode_s8wSel9 :
    decode 2 (.s8word 0x9123456789ABCDEF#64) = .ok (.s8wSel9 0x123456789ABCDEF#60) := by rfl

theorem test_decode_s8wSel10 :
    decode 2 (.s8word 0xA123456789ABCDEF#64) = .ok (.s8wSel10 0x123456789ABCDEF#60) := by rfl

theorem test_decode_s8wSel11 :
    decode 2 (.s8word 0xB123456789ABCDEF#64) = .ok (.s8wSel11 0x123456789ABCDEF#60) := by rfl

theorem test_decode_s8wSel12 :
    decode 2 (.s8word 0xC123456789ABCDEF#64) = .ok (.s8wSel12 0x123456789ABCDEF#60) := by rfl

theorem test_decode_s8wSel13 :
    decode 2 (.s8word 0xD123456789ABCDEF#64) = .ok (.s8wSel13 0x123456789ABCDEF#60) := by rfl

theorem test_decode_s8wSel14 :
    decode 2 (.s8word 0xE123456789ABCDEF#64) = .ok (.s8wSel14 0x123456789ABCDEF#60) := by rfl

theorem test_decode_s8wSel15 :
    decode 2 (.s8word 0xF123456789ABCDEF#64) = .ok (.s8wSel15 0x123456789ABCDEF#60) := by rfl

theorem test_decode_refuses_empty : decode 2 (.packet []) =
    .error (.emptyPacket) := by rfl

theorem test_decode_refuses_opcode : decode 2 (.packet [0x40000000#32]) =
    .error (.unassignedOpcode 0x40000000#32) := by rfl

theorem test_decode_refuses_field : decode 2 (.packet [0x01000002#32]) =
    .error (.nonzeroField 0x01000002#32) := by rfl

theorem test_decode_refuses_length : decode 2 (.packet [0x02000001#32]) =
    .error (.wrongLength 0x02000001#32) := by rfl

theorem test_decodeTableWord_word : decodeTableWord 64 0x9FFFFFFFFFFFFFFF = some (.s8wSel9 0xFFFFFFFFFFFFFFF#60) := by
  rfl

theorem test_decodeTableWord_packet : decodeTableWord 64 0xD = some (.s8wSel0 0xD#60) ∧
    decodeTableWord 32 0x21000000 = some .eflush := by
  constructor <;> rfl

/-! ## One step each, results from spec/95_test_vectors.md -/

/-- 95_test_vectors.md 2.7 row 9. -/
theorem test_step_setxor : reply (block 3 17) [0x1000001#32] =
    some [0#32, 0#32] := by decide +kernel

/-- 95_test_vectors.md 2.7 row 11. -/
theorem test_step_setsref : reply (block 3 17) [0x2000001#32, 0#32] =
    some [0#32, 0#32] := by decide +kernel

/-- 95_test_vectors.md 2.7 row 14. -/
theorem test_step_setsref_self : reply (block 3 17) [0x2000002#32, 2#32] =
    some [0x11000000#32, 1#32, 2#32] := by decide +kernel

/-- 95_test_vectors.md 2.7 row 5. -/
theorem test_step_rdcsr_mode : reply (block 3 17) [0x3000004#32] =
    some [0#32, 1#32, 1#32] := by decide +kernel

/-- 95_test_vectors.md 2.7 row 7. -/
theorem test_step_rdcsr_unmapped : reply (block 3 17) [0x3010003#32] =
    some [0x11000000#32, 1#32, 0x10003#32] := by decide +kernel

/-- 95_test_vectors.md 2.6. -/
theorem test_step_s8pack : reply (block 2 4) [0x10000004#32, 0#32, 5#32, 0#32, 6#32, 0#32, 7#32, 0#32, 0x11170#32] =
    some [0#32, 4#32, 0xd0000700#32, 0x600005#32, 0xf0000000#32, 0x11170#32] := by decide +kernel

/-- 95_test_vectors.md 2.6. -/
theorem test_step_s8pack_overflow : reply (block 2 4) [0x10000001#32, 0x10000000#32, 0#32] =
    some [0x4000000#32, 1#32, 0#32] := by decide +kernel

/-- 95_test_vectors.md 2.6. -/
theorem test_step_s8unpk : reply (block 2 4) [0x11000001#32, 0xe0000000#32, 0x80000001#32] =
    some [0#32, 4#32, 0#32, 1#32, 0#32, 2#32] := by decide +kernel

/-- 95_test_vectors.md 2.6. -/
theorem test_step_s8unpkn : reply (block 2 4) [0x12000002#32, 2#32, 0xd0000300#32, 0x200001#32, 0xf0000000#32, 9#32] =
    some [0#32, 5#32, 1#32, 0#32, 1#32, 0#32, 2#32] := by decide +kernel

/-- 95_test_vectors.md 2.6. -/
theorem test_step_s8unpkn_truncated : reply (block 2 4) [0x12000002#32, 5#32, 0xd0000300#32, 0x200001#32, 0xf0000000#32, 9#32] =
    some [0x2000000#32, 1#32, 0x10#32] := by decide +kernel

/-- 95_test_vectors.md program P1. -/
theorem test_step_esamp : reply midMessage [0x20000000#32, 0x3f2#32, 0xffffffcc#32, 0#32, 0#32] =
    some [0#32, 3#32, 0xa#32, 0xfffffffe#32, 0#32] := by decide +kernel

/-- 95_test_vectors.md 2.11. -/
theorem test_step_eflush_empty : reply (block 2 4) [0x21000000#32] =
    some [0x5000000#32, 1#32, 0#32] := by decide +kernel

/-- 95_test_vectors.md 2.11. -/
theorem test_step_ecancel : reply midMessage [0x22000000#32] =
    some [0#32, 0#32] := by decide +kernel

/-- 95_test_vectors.md rule R291. -/
theorem test_step_dpay : reply (block 2 4) [0x30000011#32, 4#32, 0xd00f6314#32, 0x3140300#32, 0x201#32, 0x1410000#32, 0#32] =
    some [0#32, 2#32, 0x11#32, 4#32] := by decide +kernel

/-- 95_test_vectors.md 2.10. -/
theorem test_step_dpay_truncated : reply (block 2 4) [0x30000009#32, 4#32, 0xd00f6314#32, 0x3140300#32, 0#32] =
    some [0x2000000#32, 1#32, 9#32] := by decide +kernel

/-- 95_test_vectors.md 2.11. -/
theorem test_step_rdout_empty : reply (block 2 4) [0x31000000#32] =
    some [0x11000000#32, 1#32, 0#32] := by decide +kernel

/-- 95_test_vectors.md 2.11. -/
theorem test_step_setxor_busy : reply midMessage [0x1000001#32] =
    some [0x5000000#32, 1#32, 1#32] := by decide +kernel

/-- 70_reset_and_hazards.md R390: a reset in the middle of a command: reset values, and no response. -/
theorem test_reset_cuts_command_short :
    step { midMessage with port := [.cutShort (.packet [0x21000000#32]) midMessage.straps.toPins] } =
      .next { block 2 4 with outEpoch := 1, memEpoch := 1 } := by rfl

/-- V-M3's shape with one channel: with `N = 1` every sample finalises (45_message_encode.md R261, R265). -/
theorem test_step_esamp_finalises : reply (block 1 1) [0x20000000#32, 0xFFFFFF9C#32, 0#32] =
    some [0#32, 5#32, 0xFFFFFF9C#32, 1#32, 1#32, 4#32, 0xC7010000#32] := by decide +kernel

/-- 45_message_encode.md R266 for one sample of program P1: `es = 1`, values `D0 0F 63`, two runs `00 00`. -/
theorem test_step_eflush : reply midMessage [0x21000000#32] =
    some [0#32, 4#32, 1#32, 7#32, 0xD00F6300#32, 0#32] := by decide +kernel

/-- 46_message_decode.md R298: `RDOUT 2` after the `DPAY` of R291. -/
theorem test_step_rdout : ((after (block 2 4) [0x30000011#32, 4#32, 0xD00F6314#32, 0x03140300#32, 0x201#32,
      0x1410000#32, 0#32]).bind fun t => reply t [0x31000002#32]) =
    some [0#32, 4#32, 0x406#32, 0xFFFFFFC8#32, 1#32, 0#32] := by decide +kernel

/-- 95_test_vectors.md 2.4. -/
theorem test_word_sel0 : replyWord (block 2 4) 0x0FFFFFFFFFFFFFFF#64 =
    some (0#32 :: 480#32 :: (List.replicate 240 [0#32, 0#32]).flatten) := by decide +kernel

/-- 95_test_vectors.md 2.4. -/
theorem test_word_sel1 : replyWord (block 2 4) 0x1ABCDEF012345678#64 =
    some (0#32 :: 240#32 :: (List.replicate 120 [0#32, 0#32]).flatten) := by decide +kernel

/-- 95_test_vectors.md 2.4. -/
theorem test_word_sel2 : replyWord (block 2 4) 0x2555555555555555#64 =
    some (0#32 :: 120#32 :: (List.replicate 30 [0#32, 1#32, 0#32, 0#32]).flatten) := by decide +kernel

/-- 95_test_vectors.md 2.4. -/
theorem test_word_sel3 : replyWord (block 2 4) 0x34E4E4E4E4E4E4E4#64 =
    some (0#32 :: 60#32 :: ((List.range 30).flatMap fun k => [0#32, BitVec.ofNat 32 (k % 4)])) := by decide +kernel

/-- 95_test_vectors.md 2.4. -/
theorem test_word_sel4 : replyWord (block 2 4) 0x4FFFFFFFFFFFFFFF#64 =
    some (0#32 :: 40#32 :: (List.replicate 20 [0#32, 7#32]).flatten) := by decide +kernel

/-- 95_test_vectors.md 2.4. -/
theorem test_word_sel5 : replyWord (block 2 4) 0x5EDCBA9876543210#64 =
    some (0#32 :: 30#32 :: ((List.range 15).flatMap fun k => [0#32, BitVec.ofNat 32 k])) := by decide +kernel

/-- 95_test_vectors.md 2.4. -/
theorem test_word_sel6 : replyWord (block 2 4) 0x6FFFFFFFFFFFFFFF#64 =
    some (0#32 :: 24#32 :: (List.replicate 12 [0#32, 31#32]).flatten) := by decide +kernel

/-- 95_test_vectors.md 2.4. -/
theorem test_word_sel7 : replyWord (block 2 4) 0x7FFFFFFFFFFFFFFF#64 =
    some (0#32 :: 20#32 :: (List.replicate 10 [0#32, 63#32]).flatten) := by decide +kernel

/-- 95_test_vectors.md 2.4. -/
theorem test_word_sel8 : replyWord (block 2 4) 0x80FFFFFFFFFFFFFF#64 =
    some (0#32 :: 16#32 :: (List.replicate 8 [0#32, 127#32]).flatten) := by decide +kernel

/-- 95_test_vectors.md 2.4. -/
theorem test_word_sel9 : replyWord (block 2 4) 0x9FFFFFFFFFFFFFFF#64 =
    some (0#32 :: 14#32 :: (List.replicate 7 [0#32, 255#32]).flatten) := by decide +kernel

/-- 95_test_vectors.md 2.4. -/
theorem test_word_sel10 : replyWord (block 2 4) 0xA0000000000FFC01#64 =
    some (0#32 :: 12#32 :: [0#32, 1#32, 0#32, 1023#32, 0#32, 0#32, 0#32, 0#32, 0#32, 0#32, 0#32, 0#32]) := by decide +kernel

/-- 95_test_vectors.md 2.4. -/
theorem test_word_sel11 : replyWord (block 2 4) 0xBFFFFFFFFFFFFFFF#64 =
    some (0#32 :: 10#32 :: (List.replicate 5 [0#32, 4095#32]).flatten) := by decide +kernel

/-- 95_test_vectors.md 2.4. -/
theorem test_word_sel12 : replyWord (block 2 4) 0xCFFFFFFFFFFFFFFF#64 =
    some (0#32 :: 8#32 :: [0#32, 32767#32, 0#32, 32767#32, 0#32, 32767#32, 0#32, 32767#32]) := by decide +kernel

/-- 95_test_vectors.md 2.4. -/
theorem test_word_sel13 : replyWord (block 2 4) 0xD000030000200001#64 =
    some (0#32 :: 6#32 :: [0#32, 1#32, 0#32, 2#32, 0#32, 3#32]) := by decide +kernel

/-- 95_test_vectors.md 2.4. -/
theorem test_word_sel14 : replyWord (block 2 4) 0xE000000080000001#64 =
    some (0#32 :: 4#32 :: [0#32, 1#32, 0#32, 2#32]) := by decide +kernel

/-- 95_test_vectors.md 2.4. -/
theorem test_word_sel15 : replyWord (block 2 4) 0xF0000000FFFFFFFF#64 =
    some (0#32 :: 2#32 :: [0#32, 4294967295#32]) := by decide +kernel

/-! ## Witnesses: the hypotheses of every statement can be met, each clause at a boundary -/

/-- A block of three channels with `SREF = [-1, 0, -1]`. -/
def spatialBlock : State := { block 3 17 with sref := [((0, 1), 0#32)] }

/-- The payload of program P1. -/
def payloadP1 : List Byte :=
  [0xD0, 0x0F, 0x63, 0x14, 0x03, 0x14, 0x03, 0, 0, 0, 2, 1, 1, 0x41, 0, 0, 0]

/-- A selector table that R161 allows and whose first row has 2^31 slots. -/
def wideTable : List (Nat × Nat) := (2 ^ 31, 0) :: s8tabDefault.drop 1

/-- More words of 240 zeros than a response can count, and still few enough for a packet. -/
def manyWords : List U64 := List.replicate 8947849 0

theorem manyWords_length :
    (manyWords.flatMap (s8UnpackWord s8tabDefault)).length = 240 * 8947849 := by
  have h : (s8UnpackWord s8tabDefault 0).length = 240 := by decide +kernel
  rw [List.length_flatMap, manyWords, List.map_replicate, List.sum_replicate, h, smul_eq_mul,
    Nat.mul_comm]

theorem every {P : U64 → Prop} [DecidablePred P] {vs : List U64}
    (h : vs.all (fun v => decide (P v)) = true) : ∀ v ∈ vs, P v := fun v hv =>
  of_decide_eq_true (List.all_eq_true.1 h v hv)

theorem witness_DecodeInvertsEncode :
    Instr.wf 2 (.esamp sampleA.1 sampleA.2) = true ∧ Instr.wf 0 (.dpay 0 []) = true := by decide

theorem witness_EncodeInvertsDecode :
    decode 2 (.packet [0x20000000#32, 1#32, 2#32, 3#32, 4#32]) = .ok (.esamp [1#32, 2#32] [3#32, 4#32]) ∧
    decode 2 (.packet [0x30000001#32, 1#32, 0xAABBCCDD#32]) = .ok (.dpay 1#32 [0xAA#8]) ∧
    decode 2 (.s8word 5#64) = .ok (.s8wSel0 5#60) := ⟨rfl, rfl, rfl⟩

theorem witness_IllegalPacketsRefused :
    strapsLegal (block 2 4).straps = true ∧
    ¬LegalPacket 2 [] ∧ ¬LegalPacket 2 [0x01000002#32] ∧ ¬LegalPacket 2 [0x30000004#32, 1#32] ∧
    LegalPacket 2 [0x01000001#32] ∧ LegalPacket 2 [0x30000004#32, 1#32, 0#32] ∧
    LegalPacket 2 [0x30000000#32, 1#32] := by
  refine ⟨by decide, ?_, ?_, ?_, ⟨_, _, rfl, by decide⟩, ⟨_, _, rfl, by decide⟩, ⟨_, _, rfl, by decide⟩⟩
  · rintro ⟨w0, ws, h, -⟩; cases h
  · rintro ⟨w0, ws, h, h'⟩; cases h; revert h'; decide
  · rintro ⟨w0, ws, h, h'⟩; cases h; revert h'; decide

theorem witness_StepRunsDecodedInstruction :
    strapsLegal (given (block 2 4) (.packet [0x21000000#32])).straps = true ∧
    decode 2 (.packet [0x21000000#32]) = .ok .eflush ∧
    decode State.reset.straps.C (tableEncoded State.reset.straps.C 32 0x21000000) = .ok .eflush :=
  ⟨by decide, rfl, rfl⟩

theorem witness_ResetGivesResetValues :
    strapsLegal midMessage.straps = true ∧ midMessage.port = [] ∧
    midMessage.straps.toPins = ⟨2, 4, 4000#32⟩ ∧ (⟨2, 5, 4000#32⟩ : Pins) ≠ midMessage.straps.toPins ∧
    ({ midMessage with port := [.reset ⟨2, 5, 4000#32⟩] } : State).port = .reset ⟨2, 5, 4000#32⟩ :: [] ∧
    ({ midMessage with port := [.cutShort (.packet [0x21000000#32]) ⟨2, 4, 4000#32⟩] } : State).port =
      .cutShort (.packet [0x21000000#32]) ⟨2, 4, 4000#32⟩ :: [] := by
  decide

theorem witness_FirstCommandsAfterReset :
    strapsLegal midMessage.straps = true ∧ 1 < midMessage.straps.N ∧
    strapsLegal (strapsOf 65535 14 .cnt) = true ∧ strapsLegal (strapsOf 1 2 .abs) = true := by decide

theorem witness_InvariantAtReset :
    strapsLegal (strapsOf 1 1 .cnt) = true ∧ strapsLegal (strapsOf 1 932067 .abs) = true := by decide

theorem midMessage_inv (e : Encoded) : Inv (given midMessage e) where
  straps := by show strapsLegal (strapsOf 2 4 .abs) = true; decide
  sequenced := ⟨by show (1 : Nat) < 4; decide, rfl⟩
  runs := by
    show ∀ i, i < 2 → RunsAccumulate (given midMessage e) i
    intro i hi
    have hi' : i = 0 ∨ i = 1 := by omega
    rcases hi' with rfl | rfl <;>
      exact ⟨by show (1 : Nat) ≤ 1; decide, by show (1 : Nat) ≤ 1; decide,
        by intro r (hr : r < 1); obtain rfl : r = 0 := by omega
           show 1 ≤ (1#32).toNat; decide,
        by show ([(1#32).toNat] : List Nat).sum = 1; decide,
        by intro r (hr : r + 1 < 1); omega⟩
  decode := ⟨fun _ _ => rfl, Nat.zero_le _⟩
  spatial := fun _ => .inl rfl
  faults := by show (0#32 &&& ~~~0x00070034#32) = 0; decide
  memory := by show Memory.wf midMessage = true; decide

theorem witness_InvariantKept :
    Inv (given midMessage (.packet [0x22000000#32])) ∧
    ∃ t, step (given midMessage (.packet [0x22000000#32])) = .next t :=
  ⟨midMessage_inv _, _, rfl⟩

theorem witness_EveryCommandAnswersOnce :
    strapsLegal (given midMessage (.packet [])).straps = true ∧
    (given midMessage (.packet [])).port = .command (.packet []) :: [] := ⟨by decide, rfl⟩

theorem witness_FaultsChangeNothingElse :
    strapsLegal (block 2 4).straps = true ∧ 0x05 ∈ blockCodes ∧ 0x02 ∈ blockCodes ∧
    (∃ t, step (given (block 2 4) (.packet [0x21000000#32])) = .next t ∧
      t.responses = [[BitVec.ofNat 32 (0x05 * 2 ^ 24), 1#32, 0#32]]) ∧
    ∃ t, step (given (block 2 4) (.packet [0x30000000#32, 4#32])) = .next t ∧
      t.responses = [[BitVec.ofNat 32 (0x02 * 2 ^ 24), 1#32, 0#32]] :=
  ⟨by decide, by decide, by decide, ⟨_, rfl, by decide⟩, ⟨_, rfl, by decide⟩⟩

theorem witness_FaultsIsOnlyALog :
    Instr.eflush ≠ .rdcsr 9#24 ∧ Instr.rdcsr 8#24 ≠ .rdcsr 9#24 ∧
    ∃ t, exec .eflush (block 2 4) = .next t := ⟨by decide, by decide, _, rfl⟩

theorem witness_SidesStaySeparate :
    isEncode .eflush = true ∧ isDecode .eflush = false ∧ isConfig (.setxor true) = true ∧
    midMessage.estate ≠ .idle ∧ (∃ t, exec (.setxor true) midMessage = .next t) ∧
    ∃ t, step { midMessage with port := [.reset midMessage.straps.toPins] } = .next t :=
  ⟨rfl, rfl, rfl, by decide, ⟨_, rfl⟩, _, rfl⟩

theorem witness_SidesIgnoreEachOther :
    SameConfig midMessage { midMessage with outn := 3 } ∧
    SameEncodeSide midMessage { midMessage with outn := 3 } ∧
    SameDecodeSide midMessage { midMessage with j := 3 } ∧
    (∃ t, exec .eflush midMessage = .next t) ∧ ∃ t, exec (.rdout 0) midMessage = .next t :=
  ⟨⟨rfl, rfl⟩, ⟨rfl, rfl, rfl, rfl, rfl, rfl, rfl⟩, ⟨rfl, rfl, rfl, rfl, rfl⟩, ⟨_, rfl⟩, _, rfl⟩

theorem witness_PayloadsHaveNoHiddenInput :
    (∀ i ∈ [sampleA.esamp, Instr.eflush], isEncode i = true) ∧
    SameConfig (block 2 4) { block 2 4 with prev := [((0, 0), 9#32)] } ∧ (block 2 4).j = 0 ∧
    ∃ t, execAll [sampleA.esamp, .eflush] (block 2 4) = .next t :=
  ⟨by decide, ⟨rfl, rfl⟩, rfl, _, rfl⟩

theorem witness_SetxorEffect : (block 2 4).estate = .idle ∧ midMessage.estate ≠ .idle := by decide

theorem witness_SetsrefEffect :
    let s := spatialBlock
    midMessage.estate ≠ .idle ∧ s.estate = .idle ∧ s.straps.C = 3 ∧
    s.straps.C ≤ (3#24).toNat ∧ ¬s.straps.C ≤ (2#24).toNat ∧
    (0xFFFFFFFE#32).toInt < -1 ∧ (0xFFFFFFFF#32).toInt = -1 ∧ (3#32).toInt = 3 ∧
    (2#32).toInt = ((2#24).toNat : Int) ∧
    s.srefAt 1 ≠ 0xFFFFFFFF#32 ∧ s.srefAt 0 = 0xFFFFFFFF#32 ∧ (s.srefAt 1).toInt = ((0#24).toNat : Int) ∧
    (s.srefAt 2).toInt ≠ ((0#24).toNat : Int) := by decide

theorem witness_RdcsrMap :
    spatialBlock.j < 2 ^ 24 ∧ spatialBlock.outn < 2 ^ 24 ∧ 2 < spatialBlock.straps.C ∧
    (0x010002#24).toNat = 0x010000 + 2 ∧ 9 < (0x010003#24).toNat ∧ 9 < (0x00000A#24).toNat ∧
    (∀ i, i < spatialBlock.straps.C → (0x010003#24).toNat ≠ 0x010000 + i) ∧
    ∀ i, i < spatialBlock.straps.C → (0x00000A#24).toNat ≠ 0x010000 + i := by decide

theorem witness_ConfigureInstallsTable :
    countsLegal spatialBlock.straps = true ∧ spatialBlock.estate = .idle ∧
    [0xFFFFFFFF#32, 0#32, 0#32].length = spatialBlock.straps.C ∧
    LegalTable [0xFFFFFFFF#32, 0#32, 0#32] := by
  refine ⟨by decide, by decide, by decide, ?_⟩
  intro i (hi : i < 3)
  have : i = 0 ∨ i = 1 ∨ i = 2 := by omega
  rcases this with rfl | rfl | rfl <;> decide

theorem witness_VarintShortest : (match uvGet [0x80#8, 0#8] 0 with
    | .ok r => decide (r = (0#32, 2))
    | .error _ => false) = true := by decide

theorem witness_VarintReadOutcomes :
    (0 < [0x7F#8].length ∧ ([0x7F#8].getD 0 0).toNat < 0x80) ∧
    (∀ m, m < 4 → 0x80 ≤ ([0xFF#8, 0x80#8, 0xFF#8, 0x80#8, 0x0F#8].getD m 0).toNat) ∧
    ([0xFF#8, 0x80#8, 0xFF#8, 0x80#8, 0x0F#8].getD 4 0).toNat < 0x10 ∧
    ([] : List Byte).length ≤ 0 + 0 ∧
    (∀ m, m < 4 → 0x80 ≤ ([0x80#8, 0x80#8, 0x80#8, 0x80#8].getD m 0).toNat) ∧
    0x10 ≤ ([0xFF#8, 0x80#8, 0xFF#8, 0x80#8, 0x10#8].getD 4 0).toNat := by decide

theorem witness_WordSlots :
    s8tabLegal s8tabDefault = true ∧ s8tabDefault[9]? = some (7, 8) ∧
    s8tabDefault[0]? = some (240, 0) ∧ s8tabDefault[15]? = some (1, 60) ∧
    (0x9FFFFFFFFFFFFFFF#64).toNat / 2 ^ 60 = 9 ∧
    ∀ v ∈ List.replicate 7 255#64, v.toNat < 2 ^ 8 :=
  ⟨by decide, rfl, rfl, rfl, by decide, every (by decide)⟩

theorem witness_PackerIsGreedy :
    s8tabLegal s8tabDefault = true ∧ [5#64, 0xFFFFFFFFFFFFFFF#64] ≠ [] ∧
    ∀ v ∈ [5#64, 0xFFFFFFFFFFFFFFF#64], v.toNat < 2 ^ 60 :=
  ⟨by decide, by decide, every (by decide)⟩

theorem witness_ZeroRunsTakeSelectors :
    (∀ v ∈ List.replicate 240 0#64, v.toNat < 2 ^ 60) ∧
    (240 ≤ (List.replicate 240 0#64).length ∧ ∀ v ∈ (List.replicate 240 0#64).take 240, v = 0) ∧
    (¬240 ≤ (List.replicate 120 0#64).length ∧ 120 ≤ (List.replicate 120 0#64).length ∧
      ∀ v ∈ (List.replicate 120 0#64).take 120, v = 0) ∧
    ¬120 ≤ (List.replicate 119 0#64).length :=
  ⟨every (by decide +kernel), ⟨by rw [List.length_replicate], every (by decide +kernel)⟩,
    ⟨by rw [List.length_replicate]; decide, by rw [List.length_replicate],
      every (by decide +kernel)⟩, by rw [List.length_replicate]; decide⟩

theorem witness_PackedWordCount : (∀ v ∈ [7#64], v.toNat < 2 ^ 60) ∧
    ∃ ws, s8Pack s8tabDefault [7#64] = .ok ws := ⟨every (by decide), _, rfl⟩

theorem witness_SequenceRoundTrip : s8tabLegal s8tabDefault = true ∧
    ∀ v ∈ [0xFFFFFFFFFFFFFFF#64, 0#64], v.toNat < 2 ^ 60 := ⟨by decide, every (by decide)⟩

theorem witness_S8packEffect :
    s8tabLegal (block 2 4).straps.s8tab = true ∧ (∀ v ∈ [0xFFFFFFFFFFFFFFF#64], v.toNat < 2 ^ 60) ∧
    [1#64, 0x1000000000000000#64][1]? = some 0x1000000000000000#64 ∧
    2 ^ 60 ≤ (0x1000000000000000#64).toNat ∧ (1#64).toNat < 2 ^ 60 :=
  ⟨by decide, every (by decide), rfl, by decide, by decide⟩

theorem witness_S8unpkEffect :
    2 * (([] : List U64).flatMap (s8UnpackWord s8tabDefault)).length ≤ 2 ^ 32 - 1 ∧
    2 ^ 32 - 1 < 2 * (manyWords.flatMap (s8UnpackWord s8tabDefault)).length := by
  rw [manyWords_length]; decide

theorem witness_S8unpknEffect :
    (0#32).toNat ≤ (([] : List U64).flatMap (s8UnpackWord s8tabDefault)).length ∧
    (3#32).toNat ≤ ([0xD000030000200001#64].flatMap (s8UnpackWord s8tabDefault)).length ∧
    ([0xD000030000200001#64].flatMap (s8UnpackWord s8tabDefault)).length < (4#32).toNat := by decide

theorem witness_S8unpknCountRefused :
    (0x80000000#32).toNat ≤ (manyWords.flatMap (s8UnpackWord s8tabDefault)).length ∧
    2 ^ 32 - 1 < 1 + 2 * (0x80000000#32).toNat := by
  rw [manyWords_length]; decide

theorem witness_S8CommandsArePure :
    (∃ vs, Instr.s8pack [1] = .s8pack vs) ∧ (block 2 4).straps = midMessage.straps :=
  ⟨⟨_, rfl⟩, rfl⟩

theorem witness_S8wordEffect :
    s8tabLegal (block 2 4).straps.s8tab = true ∧ 2 * (s8tabDefault.getD 0 (0, 0)).1 ≤ 2 ^ 32 - 1 ∧
    s8tabLegal wideTable = true ∧ ¬2 * (wideTable.getD 0 (0, 0)).1 ≤ 2 ^ 32 - 1 := by decide

theorem witness_ResidualClosedForm :
    (block 2 4).j = 0 ∧ ([] : List Sample).length < 4 ∧
      [sampleA, sampleB, sampleA].length < (block 2 4).straps.N := by decide

theorem witness_PrevHoldsDifferences :
    (block 2 4).j = 0 ∧ [sampleA] ≠ [] ∧ [sampleA, sampleB, sampleA].length < (block 2 4).straps.N := by
  decide

theorem witness_DsumMirrorsPrev :
    (block 2 4).j = 0 ∧ 2 ≤ [sampleA, sampleB].length ∧
    [sampleA, sampleB, sampleA].length < (block 2 4).straps.N ∧
    ∀ k i, (block 2 4).dsumAt k i = 0 := ⟨rfl, by decide, by decide, fun _ _ => rfl⟩

theorem witness_PredictorRoundTrip :
    SpatialLegal { block 2 4 with sref := [((0, 1), 0#32)] } ∧
    (∀ x ∈ [sampleA, sampleB], x.fits 2) ∧ (∀ k i, (block 2 4).dsumAt k i = 0) ∧
    LegalOrder 2 2 (places 2 2) ∧ LegalOrder 2 2 [(0, 0), (1, 0), (0, 1), (1, 1)] ∧
    strapsLegal (block 2 4).straps = true ∧ [sampleA, sampleB].length ≤ (block 2 4).straps.N := by
  have order : ∀ ps : List (Nat × Nat), (∀ p ∈ ps, p.2 < 2) →
      ((ps.filter fun p => p.2 == 0).map Prod.fst) = List.range 2 →
      ((ps.filter fun p => p.2 == 1).map Prod.fst) = List.range 2 → LegalOrder 2 2 ps := by
    intro ps h h0 h1
    refine ⟨h, fun i hi => ?_⟩
    have : i = 0 ∨ i = 1 := by omega
    rcases this with rfl | rfl
    · exact h0
    · exact h1
  refine ⟨?_, ?_, fun _ _ => rfl, order _ (by decide) (by decide) (by decide),
    order _ (by decide) (by decide) (by decide), by decide, by decide⟩
  · intro i
    by_cases h : i = 1
    · subst h; right; decide
    · left
      have h' : ¬((0, 1) : Nat × Nat) = (0, i) := by
        intro e; injection e with _ e; exact h e.symm
      simp only [State.srefAt, Table.get, Table.find, if_neg h', Option.getD_none]
  · intro x hx
    simp only [List.mem_cons, List.not_mem_nil, or_false] at hx
    rcases hx with rfl | rfl <;> exact ⟨rfl, rfl⟩

theorem witness_RunsDescribeQuality :
    strapsLegal (block 2 4).straps = true ∧ (block 2 4).j = 0 ∧ [sampleA] ≠ [] ∧
    [sampleA, sampleB, sampleA].length < (block 2 4).straps.N := by decide

theorem witness_QualityRoundTrip :
    strapsLegal (block 2 4).straps = true ∧ (block 2 4).straps.fill ≠ .cnt ∧
    (strapsOf 2 4 .cnt).fill = .cnt ∧
    [sampleA, sampleB, sampleA, sampleA].length ≤ (block 2 4).straps.N ∧
    (runsOf (qualityWords [sampleA, sampleB, sampleA, sampleA] 1)).getD 1 (0, 0) = (7, 1) := by decide

theorem witness_AbsFillWrites :
    strapsLegal (block 1 6).straps = true ∧ (block 1 6).straps.fill = .abs ∧
    [7#32, 7#32, 9#32, 9#32, 9#32, 4#32].length ≤ (block 1 6).straps.N ∧
    (runsOf [7#32, 7#32, 9#32, 9#32, 9#32, 4#32])[1]? = some (9#32, 3) ∧
    runStart (runsOf [7#32, 7#32, 9#32, 9#32, 9#32, 4#32]) 1 = 2 := by decide

theorem witness_AbsRoundTripCondition :
    strapsLegal (strapsOf 1 6 .abs) = true ∧ (strapsOf 1 6 .abs).fill = .abs ∧
    [7#32] ≠ [] ∧ [7#32, 7#32, 9#32, 9#32, 9#32, 4#32].length ≤ (strapsOf 1 6 .abs).N := by decide

theorem witness_EsampEffect :
    midMessage.j + 1 ≠ midMessage.straps.N ∧ (block 1 1).j + 1 = (block 1 1).straps.N := by decide

theorem witness_EflushEffect : (block 2 4).j = 0 ∧ midMessage.j ≠ 0 := by decide

theorem witness_EncodeStateTransitions : Sequenced midMessage ∧ Sequenced (block 1 1) :=
  ⟨⟨by decide, by decide⟩, ⟨by decide, by decide⟩⟩

theorem witness_MessagePayloadFromSamples :
    strapsLegal (block 2 4).straps = true ∧ (block 2 4).j = 0 ∧ [sampleA] ≠ [] ∧
    [sampleA, sampleB, sampleA, sampleA].length = (block 2 4).straps.N ∧ [sampleA].length < 4 := by decide

theorem witness_PayloadSizeBounds :
    strapsLegal (strapsOf 2 16 .abs) = true ∧ strapsLegal (strapsOf 2 17 .abs) = true ∧
    strapsLegal { strapsOf 2 17 .abs with s8tab := wideTable } = true ∧
    (strapsOf 2 17 .abs).s8tab = s8tabDefault ∧ 16 < (strapsOf 2 17 .abs).N ∧
    (strapsOf 2 16 .abs).N ≤ 16 ∧ [sampleA].length ≤ 16 := by decide

theorem witness_DpayOutcomes :
    (0#32).toInt ≤ 0 ∧ (0xFFFFFFFF#32).toInt ≤ 0 ∧ 0 < (1#32).toInt ∧ 0 < (0x7FFFFFFF#32).toInt := by
  decide

theorem witness_DpayCompletes : 0 < (4#32).toInt ∧
    ∃ u pos, parsePayload payloadP1 (min (4#32).toNat (block 2 4).straps.N)
      { block 2 4 with outn := 0, dsum := [] } = .ok (u, pos) := ⟨by decide, _, _, rfl⟩

theorem witness_DpaySlotFaults :
    16 < (block 2 17).straps.N ∧ 0 < (1#32).toInt ∧
    channelsEnd s8tabDefault (toBe64 0xF000000000000007#64 ++ [1, 2, 3]) 1 1 = some 8 ∧
    (toBe64 0xF000000000000007#64 ++ [1, 2, 3]).drop 8 = ([] : List U64).flatMap toBe64 ++ [1, 2, 3] ∧
    (([] : List U64).flatMap (s8UnpackWord s8tabDefault)).length < 1 ∧
    channelsEnd s8tabDefault (toBe64 0xF000000100000000#64) 1 0 = some 0 ∧
    (toBe64 0xF000000100000000#64).drop 0 = [0xF000000100000000#64].flatMap toBe64 ++ [] ∧
    ([0xF000000100000000#64].flatMap (s8UnpackWord s8tabDefault))[0]? = some 0x100000000#64 ∧
    1 ≤ ([0xF000000100000000#64].flatMap (s8UnpackWord s8tabDefault)).length ∧
    2 ^ 32 ≤ (0x100000000#64).toNat :=
  ⟨by decide, by decide, rfl, rfl, by decide, rfl, rfl, rfl, by decide, by decide⟩

theorem fieldCut_of {B : List Byte} {pos : Nat} (k : Nat) (h : k ≤ 4 ∧ B.length ≤ pos + k ∧
    ∀ m, m < k → 0x80 ≤ (B.getD (pos + m) 0).toNat) : FieldCut B pos := ⟨k, h⟩

theorem witness_DpayFieldFaults :
    0 < (4#32).toInt ∧ 1 ≤ (block 2 4).straps.N ∧ (block 2 4).straps.N ≤ 16 ∧
    (fieldsEnd (payloadP1.take 6) 5 0 = some 6 ∧ FieldCut (payloadP1.take 6) 6) ∧
    (fieldsEnd [2, 0xFF, 0xFF, 0xFF, 0xFF, 0x10] 1 0 = some 1 ∧
      FieldOverlong [2, 0xFF, 0xFF, 0xFF, 0xFF, 0x10] 1) ∧
    (valuesEnd (block 2 4).straps (payloadP1.take 16) 4 = some 9 ∧
      pairAt 4 4 (payloadP1.take 16) 3 (0, 0, 9) = some (1, 0, 15) ∧
      (∃ v, uvGet (payloadP1.take 16) 15 = .ok (v, 1)) ∧ FieldCut (payloadP1.take 16) 16) ∧
    valuesEnd (block 2 4).straps (payloadP1.take 9 ++ [0, 5]) 4 = some 9 ∧
    uvGet (payloadP1.take 9 ++ [0, 5]) 9 = .ok (0#32, 1) ∧
    uvGet (payloadP1.take 9 ++ [0, 5]) 10 = .ok (5#32, 1) ∧ (block 2 4).straps.N < (5#32).toNat ∧
    ∃ start, valuesEnd (block 1 17).straps (toBe64 0xF000000000000007#64) 1 = some start ∧
      FieldCut (toBe64 0xF000000000000007#64) start :=
  ⟨by decide, by decide, by decide, ⟨rfl, fieldCut_of 0 (by decide)⟩, ⟨rfl, by unfold FieldOverlong; decide⟩,
    ⟨rfl, rfl, ⟨_, rfl⟩, fieldCut_of 0 (by decide)⟩, rfl, rfl, rfl, by decide, 8, rfl,
    fieldCut_of 0 (by decide)⟩

theorem witness_QualityLengthRange :
    0 < 4 ∧ 4 ≤ (block 1 4).straps.N ∧
    (∃ p, readPair [7#8, 5#8] 0 = .ok (7#32, 5#32, p)) ∧ (block 1 4).straps.N < (5#32).toNat ∧
    (∃ p, readPair [7#8, 4#8] 0 = .ok (7#32, 4#32, p)) ∧ (4#32).toNat ≤ (block 1 4).straps.N ∧
    4 ≤ 0 + (4#32).toNat ∧ (∃ p, readPair [7#8, 0#8] 0 = .ok (7#32, 0#32, p)) ∧
    (∃ p, readPair [7#8, 3#8] 0 = .ok (7#32, 3#32, p)) ∧ ¬(3#32 = 0#32 ∨ 4 ≤ 0 + (3#32).toNat) :=
  ⟨by decide, by decide, ⟨_, rfl⟩, by decide, ⟨_, rfl⟩, by decide, by decide, ⟨_, rfl⟩, ⟨_, rfl⟩, by decide⟩

theorem witness_TrailingBytesIgnored :
    17 ≤ (payloadP1 ++ [9#8]).length ∧ (payloadP1 ++ [9#8]).length < 2 ^ 32 ∧
    ∃ t, exec (.dpay 4 (payloadP1 ++ [9#8])) (block 2 4) = .next t ∧
      t.responses = [[0#32, 2#32, BitVec.ofNat 32 17, BitVec.ofNat 32 4]] :=
  ⟨by decide, by decide, _, rfl, by decide +kernel⟩

theorem witness_DpayWritesOnlyItsEntries :
    0 < (4#32).toInt ∧ 0 < (block 2 4).straps.N ∧
    ∃ t, exec (.dpay 4 payloadP1) (block 2 4) = .next t ∧ t.faults = (block 2 4).faults ∧
      t.outn = min (4#32).toNat (block 2 4).straps.N :=
  ⟨by decide, by decide, _, rfl, by decide +kernel, by decide +kernel⟩

theorem witness_RdoutEffect :
    (3#24).toNat < ({ block 2 4 with outn := 4 } : State).outn ∧
    ({ block 2 4 with outn := 4 } : State).outn ≤ (4#24).toNat := by decide

theorem witness_MessageRoundTrip :
    strapsLegal (block 2 4).straps = true ∧ (block 2 4).j = 0 ∧
    [sampleA, sampleB, sampleA, sampleA].length ≤ (block 2 4).straps.N ∧
    (∀ x ∈ [sampleA, sampleB], x.fits (block 2 4).straps.C) ∧ SameConfig (block 2 4) (block 2 4) ∧
    SpatialLegal (block 2 4) ∧
    (runsOf (qualityWords [sampleA, sampleB, sampleA, sampleA] 1)).getD 1 (0, 0) = (7, 1) := by
  refine ⟨by decide, by decide, by decide, ?_, ⟨rfl, rfl⟩, fun _ => .inl rfl, by decide⟩
  intro x hx
  simp only [List.mem_cons, List.not_mem_nil, or_false] at hx
  rcases hx with rfl | rfl <;> exact ⟨rfl, rfl⟩

theorem witness_DecodeMessageExpansion :
    strapsLegal (block 2 4).straps = true ∧
    (∃ t, issueDecodeMessage 4 payloadP1 (block 2 4) = .next t ∧ t.responses.length = 5) ∧
    ∃ t, issueDecodeMessage 4 [] (block 2 4) = .next t ∧
      t.responses = [[0x02000000#32, 1#32, 0#32]] :=
  ⟨by decide, ⟨_, rfl, by decide +kernel⟩, _, rfl, by decide +kernel⟩

theorem witness_HostMessageRoundTrip :
    (∀ b : List Byte, some (id b) = some b) ∧ (List.replicate 16 1#8).length = 16 ∧
    List.replicate 16 2#8 ≠ List.replicate 16 1#8 ∧ 24 < 25 := ⟨fun _ => rfl, by decide, by decide, by decide⟩

end Sys2Proof.Tests
end

section
/-! PROOFS of the family 30_encoding.md. The layer of facts on the packet format: the fields of a header, which
packets the decoder accepts and what it makes of them (R91 to R94, R104); and the step that takes a packet. -/

namespace Sys2Proof

/-! ## The fields of a header word (30_encoding.md R91) -/

theorem opField_toNat (w : Word) : (opField w).toNat = w.toNat / 2 ^ 24 := by
  have hw := w.isLt
  simp only [opField, BitVec.extractLsb'_toNat, Nat.shiftRight_eq_div_pow]
  omega

theorem argField_toNat (w : Word) : (argField w).toNat = w.toNat % 2 ^ 24 := by
  simp only [argField, BitVec.extractLsb'_toNat, Nat.shiftRight_zero]

theorem header_toNat (op : Opcode) (a : BitVec 24) :
    (header op a).toNat = op.code.toNat * 2 ^ 24 + a.toNat := by
  rw [header, BitVec.toNat_append, ← Nat.shiftLeft_add_eq_or_of_lt a.isLt, Nat.shiftLeft_eq]

@[simp] theorem opField_header (op : Opcode) (a : BitVec 24) : opField (header op a) = op.code := by
  apply BitVec.eq_of_toNat_eq
  rw [opField_toNat, header_toNat]
  omega

@[simp] theorem argField_header (op : Opcode) (a : BitVec 24) : argField (header op a) = a := by
  apply BitVec.eq_of_toNat_eq
  rw [argField_toNat, header_toNat]
  omega

/-- A word whose top byte is an opcode's code is the header of that opcode and its own argument field. -/
theorem eq_header_of_opField {w : Word} {op : Opcode} (h : opField w = op.code) :
    w = header op (argField w) := by
  apply BitVec.eq_of_toNat_eq
  rw [header_toNat, ← h, opField_toNat, argField_toNat]
  omega

@[simp] theorem opcodeOf_code (op : Opcode) : opcodeOf op.code = some op := by
  cases op <;> rfl

/-- The opcode map of R92 read backwards: a byte is assigned to an opcode exactly if it is its code. -/
theorem opcodeOf_eq_some_iff (b : BitVec 8) (op : Opcode) : opcodeOf b = some op ↔ b = op.code := by
  constructor
  · intro h
    unfold opcodeOf at h
    iterate 11
      rcases ite_eq_iff.1 h with ⟨hb, hop⟩ | ⟨-, h⟩
      · cases hop; exact hb
    cases h
  · rintro rfl
    exact opcodeOf_code op

/-! ## Which packets pass the checks of R104 -/

/-- The must-be-zero part of the argument of `SETXOR` is `a[23:1]`: what is left is a single bit. -/
theorem fixedFieldsZero_setxor_iff (a : BitVec 24) :
    fixedFieldsZero .setxor a = true ↔ a.toNat < 2 := by
  have ha := a.isLt
  simp only [fixedFieldsZero, beq_iff_eq, ← BitVec.toNat_inj, BitVec.extractLsb'_toNat,
    Nat.shiftRight_eq_div_pow, BitVec.toNat_ofNat]
  omega

/-- None of the four cases of R104 holds of the packet `p`, whose header has the opcode `op` and the argument `a` and
is followed by the words `ws`. -/
def HasFormat (c : Nat) (p : Packet) (op : Opcode) (a : BitVec 24) (ws : List Word) : Prop :=
  p = header op a :: ws ∧ fixedFieldsZero op a = true ∧ p.length = packetLength c op a

/-- The decoder accepts exactly the packets of one of the eleven formats, and assembles their operands. -/
theorem decodePacket_eq_ok_iff (c : Nat) (p : Packet) (i : Instr) :
    decodePacket c p = .ok i ↔ ∃ op a ws, HasFormat c p op a ws ∧ i = assemble c op a ws := by
  constructor
  · intro h
    unfold decodePacket at h
    split at h
    · cases h
    next w0 ws =>
      split at h
      · cases h
      next op hop =>
        split_ifs at h with hzero hlen
        cases h
        have hw0 := eq_header_of_opField ((opcodeOf_eq_some_iff _ _).1 hop)
        exact ⟨op, argField w0, ws, ⟨by rw [← hw0], by simpa using hzero, by simpa using hlen⟩, rfl⟩
  · rintro ⟨op, a, ws, ⟨rfl, hzero, hlen⟩, rfl⟩
    simp [decodePacket, hzero, ← hlen]

/-- The info word of a refused packet is its first word, or 0 if it has none (R104). -/
theorem info_of_decodePacket_error {c : Nat} {p : Packet} {f : Illegal}
    (h : decodePacket c p = .error f) : f.info = p.headD 0 := by
  unfold decodePacket at h
  split at h
  · cases h; rfl
  · split at h
    · cases h; rfl
    · split_ifs at h <;> cases h <;> rfl

/-! ## What decodes is well-formed -/

theorem unpackU64s_length (ws : List Word) : (unpackU64s ws).length = ws.length / 2 := by
  fun_induction unpackU64s ws with
  | case1 hi lo rest ih => simp only [List.length_cons, ih]; omega
  | case2 ws hshort =>
    have hlen : ws.length < 2 := by
      match ws, hshort with
      | [], _ | [_], _ => simp
      | hi :: lo :: rest, hshort => exact absurd rfl (hshort hi lo rest)
    rw [List.length_nil]; omega

theorem unpackBytes_length_le (len : Nat) (ws : List Word) : (unpackBytes len ws).length ≤ len :=
  List.length_take_le _ _

theorem wf_assemble {c : Nat} {p : Packet} {op : Opcode} {a : BitVec 24} {ws : List Word}
    (h : HasFormat c p op a ws) : (assemble c op a ws).wf c = true := by
  obtain ⟨rfl, -, hlen⟩ := h
  have ha := a.isLt
  cases op <;> simp only [List.length_cons, packetLength] at hlen <;>
    simp only [assemble, Instr.wf, fitsArgument, unpackU64s_length, List.length_tail, decide_eq_true_eq,
      List.length_take, List.length_drop, Bool.and_eq_true, beq_iff_eq]
  case s8pack | s8unpk | s8unpkn | esamp => omega
  case dpay => exact Nat.lt_of_le_of_lt (unpackBytes_length_le _ _) ha

end Sys2Proof

namespace Sys2Proof.Machine

/-- The header of a legal packet has one of the eleven opcodes (R104 case (2) does not hold). -/
theorem LegalPacket.opcode {c : Nat} {w0 : Word} {ws : List Word} (h : LegalPacket c (w0 :: ws)) :
    ∃ op : Opcode, opField w0 = op.code := by
  suffices ∃ op : Opcode, w0.toNat / 2 ^ 24 = op.code.toNat by
    obtain ⟨op, hop⟩ := this
    exact ⟨op, BitVec.eq_of_toNat_eq (by rw [opField_toNat, hop])⟩
  obtain ⟨_, _, ⟨rfl, rfl⟩, h⟩ := h
  rcases h with ⟨h, -⟩ | ⟨h, -⟩ | ⟨h, -⟩ | ⟨h, -⟩ | ⟨h, -⟩ | ⟨h, -⟩ | ⟨h, -⟩ | ⟨h, -⟩ | ⟨h, -⟩ |
    ⟨h, -⟩ | ⟨h, -⟩
  exacts [⟨.setxor, h⟩, ⟨.setsref, h⟩, ⟨.rdcsr, h⟩, ⟨.s8pack, h⟩, ⟨.s8unpk, h⟩, ⟨.s8unpkn, h⟩, ⟨.esamp, h⟩,
    ⟨.eflush, h⟩, ⟨.ecancel, h⟩, ⟨.dpay, h⟩, ⟨.rdout, h⟩]

/-- Once the opcode is known, the spec's table of R92 and R94 says what the decoder checks for that opcode. -/
theorem legalPacket_header_cons (c : Nat) (op : Opcode) (a : BitVec 24) (ws : List Word) :
    LegalPacket c (header op a :: ws) ↔ HasFormat c (header op a :: ws) op a ws := by
  have hop : (header op a).toNat / 2 ^ 24 = op.code.toNat := by rw [← opField_toNat, opField_header]
  have harg : (header op a).toNat % 2 ^ 24 = a.toNat := by rw [← argField_toNat, argField_header]
  have hzero : a = 0#24 ↔ a.toNat = 0 := by rw [← BitVec.toNat_inj]; rfl
  simp only [LegalPacket, HasFormat, List.cons.injEq, and_assoc, exists_and_left, exists_eq_left', hop, harg, true_and]
  cases op
  case setxor => simp [Opcode.code, packetLength, fixedFieldsZero_setxor_iff]
  all_goals simp [Opcode.code, packetLength, fixedFieldsZero, hzero]

/-- The packets that R104 lets through, as R92 and R94 lay them out, are those the decoder's checks let through. -/
theorem legalPacket_iff (c : Nat) (p : Packet) :
    LegalPacket c p ↔ ∃ op a ws, HasFormat c p op a ws := by
  constructor
  · intro h
    obtain ⟨w0, ws, rfl, -⟩ := id h
    obtain ⟨op, hop⟩ := h.opcode
    rw [eq_header_of_opField hop] at h ⊢
    exact ⟨op, argField w0, ws, (legalPacket_header_cons c op _ ws).1 h⟩
  · rintro ⟨op, a, ws, h⟩
    obtain ⟨rfl, -⟩ := id h
    exact (legalPacket_header_cons c op a ws).2 h

/-! ## A step that takes a packet (R104) -/

section

variable {s : State} {e : Encoded} {rest : List Input}

theorem step_of_decode_ok {i : Instr} (hs : strapsLegal s.straps = true) (hport : s.port = .command e :: rest)
    (h : decode s.straps.C e = .ok i) : step s = exec i { s with port := rest } := by
  simp [step, hs, hport, takeInput, h]

theorem step_of_decode_error {f : Illegal} (hs : strapsLegal s.straps = true)
    (hport : s.port = .command e :: rest) (h : decode s.straps.C e = .error f) :
    step s = .next (answersFault 0x10 f.info { s with port := rest }) := by
  simp [step, hs, hport, takeInput, h, raiseFault_eq, FaultKind.code]

end

/-- Settles O3: the decoder's checks are the four cases of R104, whatever their order. -/
theorem illegalPacketsRefused : Obligations.IllegalPacketsRefused := by
  intro s p rest hs hport
  constructor
  · intro hillegal
    cases h : decodePacket s.straps.C p with
    | ok i =>
      obtain ⟨op, a, ws, hformat, -⟩ := (decodePacket_eq_ok_iff _ _ _).1 h
      exact absurd ((legalPacket_iff _ _).2 ⟨op, a, ws, hformat⟩) hillegal
    | error f =>
      rw [step_of_decode_error hs hport h, info_of_decodePacket_error h]
  · intro hlegal
    obtain ⟨op, a, ws, hformat⟩ := (legalPacket_iff _ _).1 hlegal
    have h := (decodePacket_eq_ok_iff _ _ _).2 ⟨op, a, ws, hformat, rfl⟩
    exact ⟨_, h, wf_assemble hformat, step_of_decode_ok hs hport h⟩

end Sys2Proof.Machine
end

section
/-! PROOFS of the family 30_encoding.md. `DECODE_MESSAGE` and its expansion (R109): what `DPAY` and `RDOUT` answer, and
what the host reads back. -/

namespace Sys2Proof.Machine

/-! ## What `RDOUT` and `DPAY` answer (46_message_decode.md R291, R298) -/

theorem sampleWords_length (s : State) (j : Nat) : (sampleWords s j).length = 2 * s.straps.C := by
  simp only [sampleWords, List.length_append, List.length_map, List.length_range]
  omega

@[simp] theorem sampleWords_respond (ws : List Word) (s : State) (j : Nat) :
    sampleWords (respond ws s) j = sampleWords s j := rfl

/-- An `OK` response with the words of a sample, as R95 and R96 lay it out. -/
theorem responsePacket_sampleWords (s : State) (j : Nat) :
    responsePacket 0x00#8 (sampleWords s j) =
      0#32 :: BitVec.ofNat 32 (2 * s.straps.C) :: sampleWords s j := by
  rw [responsePacket, sampleWords_length]
  rfl

theorem exec_rdout_of_lt {j : BitVec 24} {s : State} (h : j.toNat < s.outn) :
    exec (.rdout j) s = .next (respond (sampleWords s j.toNat) s) := by
  rw [exec, execRdout, if_neg (by omega)]

/-- `DPAY` ends in one of two ways: with a fault, or `OK` with the length `min(es, N)`, which `OUTN` holds then. -/
theorem exec_dpay_cases (es : Word) (bytes : List Byte) (s : State) :
    ∃ t, exec (.dpay es bytes) s = .next t ∧
      ((∃ (f : FaultKind) (info : Word), t.responses = s.responses ++ [responsePacket f.code [info]]) ∨
       ∃ pos, t.responses = s.responses ++
            [responsePacket 0x00#8 [natWord pos, natWord (min es.toNat s.straps.N)]] ∧
          t.outn = min es.toNat s.straps.N ∧ t.straps = s.straps) := by
  simp only [exec, execDpay, decodeLength]
  split
  · exact ⟨_, rfl, .inl ⟨.badOperand, es, rfl⟩⟩
  · split
    next f _ => exact ⟨_, rfl, .inl ⟨f.kind, f.info, rfl⟩⟩
    next u pos hparse =>
      obtain ⟨d, o, q, rfl⟩ := parsePayload_frame _ _ _ _ _ hparse
      exact ⟨_, rfl, .inr ⟨pos, rfl, rfl, rfl⟩⟩

/-! ## What the host reads back (30_encoding.md R109) -/

/-- No fault has the code 0 of `OK` (60_exceptions.md R350). -/
theorem statusWord_fault_ne_zero (f : FaultKind) : statusWord f.code ≠ 0#32 := by
  cases f <;> decide

theorem readBack_fault (f : FaultKind) (info : Word) : readBack (responsePacket f.code [info]) = [] := rfl

theorem readBack_ok {n : Nat} (hn : n < 2 ^ 32) (w : Word) :
    readBack (responsePacket 0x00#8 [w, natWord n]) =
      (List.range n).map fun j => .rdout (BitVec.ofNat 24 j) := by
  have hlength : decodedLength (responsePacket 0x00#8 [w, natWord n]) = some n := by
    simp [decodedLength, responsePacket, statusWord, natWord]
    exact hn
  rw [readBack, hlength]

/-- `RDOUT` of decoded samples, one after another, answers each and changes nothing else. -/
theorem execAll_rdout (js : List Nat) (s : State) (hout : ∀ j ∈ js, j < s.outn)
    (hfits : ∀ j ∈ js, j < 2 ^ 24) :
    execAll (js.map fun j => .rdout (BitVec.ofNat 24 j)) s = .next { s with
      responses := s.responses ++ js.map fun j => responsePacket 0x00#8 (sampleWords s j) } := by
  induction js generalizing s with
  | nil => simp [execAll]
  | cons j js ih =>
    simp only [List.forall_mem_cons] at hout hfits
    have hj : (BitVec.ofNat 24 j).toNat = j := by rw [BitVec.toNat_ofNat, Nat.mod_eq_of_lt hfits.1]
    have hexec := exec_rdout_of_lt (j := BitVec.ofNat 24 j) (s := s) (by rw [hj]; exact hout.1)
    rw [hj] at hexec
    rw [List.map_cons, execAll_cons hexec, ih (respond (sampleWords s j) s) hout.2 hfits.2]
    simp only [sampleWords_respond, respond_responses, List.append_assoc, List.singleton_append, List.map_cons]
    rfl

/-- A sample index of a legal block fits the 24-bit argument of `RDOUT` (00_scope.md R9). -/
theorem N_lt_of_strapsLegal {p : Straps} (h : strapsLegal p = true) : p.N < 2 ^ 24 := by
  simp only [strapsLegal, countsLegal, Bool.and_eq_true, decide_eq_true_eq] at h
  omega

/-- Settles O60, by the two ways `DPAY` can end; the reads after an `OK` go by induction on their list
(`execAll_rdout`). -/
theorem decodeMessageExpansion : Obligations.DecodeMessageExpansion := by
  intro es bytes s hs
  obtain ⟨t, hexec, hanswer⟩ := exec_dpay_cases es bytes s
  have hissue {r : Packet} (hr : t.responses = s.responses ++ [r]) :
      issueDecodeMessage es bytes s = execAll (decodeMessage es bytes r) s := by
    rw [issueDecodeMessage_eq hexec, hr, List.getLastD_concat]
  rcases hanswer with ⟨f, info, hr⟩ | ⟨pos, hr, hn, hstraps⟩
  · have hstatus : (responsePacket f.code [info]).head? ≠ some 0#32 := by
      simpa [responsePacket] using statusWord_fault_ne_zero f
    refine ⟨t, _, hexec, hr, hissue hr, fun _ => ⟨rfl, ?_⟩, fun hok => absurd hok hstatus⟩
    rw [hissue hr, decodeMessage, execAll_cons hexec, readBack_fault, execAll]
  · have hlt : min es.toNat s.straps.N < 2 ^ 24 :=
      Nat.lt_of_le_of_lt (Nat.min_le_right _ _) (N_lt_of_strapsLegal hs)
    have hread := readBack_ok (Nat.lt_trans hlt (by decide)) (natWord pos)
    refine ⟨t, _, hexec, hr, hissue hr, fun hfault => absurd rfl hfault, fun _ => ⟨rfl, ?_, ?_⟩⟩
    · rw [decodeMessage, hread]
    · rw [hissue hr, decodeMessage, execAll_cons hexec, hread, execAll_rdout]
      · simp only [responsePacket_sampleWords, ← hstraps]
        rfl
      · simp [hn]
      · intro j hj
        exact Nat.lt_trans (List.mem_range.1 hj) hlt

end Sys2Proof.Machine
end

section
/-! PROOFS of the family 41_zigzag_varint.md. Both maps of the zig-zag as arithmetic on numbers (R140, R141), one
turn of each LEB128 loop as arithmetic on numbers (R143, R144), and the four obligations from these. -/

namespace Sys2Proof.Machine

/-! ## The zig-zag maps as arithmetic (R140, R141) -/

@[simp] theorem lsr32_toNat (u : Word) (k : Nat) : (lsr32 u k).toNat = u.toNat / 2 ^ k := by
  rw [lsr32, BitVec.toNat_ushiftRight, Nat.shiftRight_eq_div_pow]

/-- The shift of both LEB128 loops drops one group of 7 bits. -/
theorem lsr32_seven_toNat (x : Word) : (lsr32 x 7).toNat = x.toNat / 128 := lsr32_toNat x 7

theorem shl32_one_toNat (x : Word) : (shl32 x 1).toNat = 2 * x.toNat % 2 ^ 32 := by
  rw [shl32, BitVec.toNat_shiftLeft, Nat.shiftLeft_eq, Nat.mul_comm, Nat.pow_one]

/-- Shifting the sign bit over the whole word leaves the mask that `zz_enc` complements with. -/
theorem asr32_31_eq (x : Word) : asr32 x 31 = if x.toNat < 2 ^ 31 then 0 else BitVec.allOnes 32 := by
  have hx := x.isLt
  apply BitVec.eq_of_toNat_eq
  rw [asr32, BitVec.toNat_sshiftRight, BitVec.msb_eq_decide]
  simp only [Nat.shiftRight_eq_div_pow, decide_eq_true_eq]
  rcases Nat.lt_or_ge x.toNat (2 ^ 31) with hpos | hneg
  · rw [if_neg (Nat.not_le.2 hpos), if_pos hpos]
    exact Nat.div_eq_of_lt hpos
  · rw [if_pos hneg, if_neg (Nat.not_lt.2 hneg), BitVec.toNat_allOnes]
    omega

theorem zzEnc_toNat (x : Word) :
    (zzEnc x).toNat = if x.toNat < 2 ^ 31 then 2 * x.toNat else 2 ^ 33 - 1 - 2 * x.toNat := by
  have hx := x.isLt
  rw [zzEnc, xor32, asr32_31_eq]
  split
  case isTrue hpos =>
    rw [show shl32 x 1 ^^^ 0 = shl32 x 1 from BitVec.xor_zero, shl32_one_toNat]
    omega
  case isFalse hneg =>
    rw [BitVec.xor_allOnes, BitVec.toNat_not, shl32_one_toNat]
    omega

theorem and_one_eq_one_iff (u : Word) : u &&& 1 = 1 ↔ u.toNat % 2 = 1 := by
  rw [← BitVec.toNat_inj, BitVec.toNat_and]
  exact Eq.congr_left (Nat.and_one_is_mod _)

theorem zzDec_toNat (u : Word) :
    (zzDec u).toNat = if u.toNat % 2 = 1 then 2 ^ 32 - 1 - u.toNat / 2 else u.toNat / 2 := by
  simp only [zzDec, xor32, and_one_eq_one_iff]
  split
  case isTrue hodd =>
    rw [show 0xFFFFFFFF#32 = BitVec.allOnes 32 from rfl, BitVec.xor_allOnes, BitVec.toNat_not, lsr32_toNat, Nat.pow_one]
  case isFalse heven =>
    rw [show lsr32 u 1 ^^^ 0 = lsr32 u 1 from BitVec.xor_zero, lsr32_toNat, Nat.pow_one]

theorem zzDec_zzEnc (x : Word) : zzDec (zzEnc x) = x := by
  have hx := x.isLt
  apply BitVec.eq_of_toNat_eq
  rw [zzDec_toNat, zzEnc_toNat]
  split <;> split <;> omega

theorem zzEnc_zzDec (u : Word) : zzEnc (zzDec u) = u := by
  have hu := u.isLt
  apply BitVec.eq_of_toNat_eq
  rw [zzEnc_toNat, zzDec_toNat]
  split <;> split <;> omega

/-! ## One turn of the loop of `uv_put` (R143) -/

theorem uvPutUpTo_of_lt (more : Nat) {x : Word} (h : x.toNat < 128) : uvPutUpTo more x = [x.setWidth 8] := by
  cases more with
  | zero => rfl
  | succ more => rw [uvPutUpTo, if_neg (by rw [BitVec.le_def]; exact Nat.not_le.2 h)]

theorem toNat_setWidth_byte {x : Word} (h : x.toNat < 128) : (x.setWidth 8).toNat = x.toNat := by
  rw [BitVec.toNat_setWidth]
  omega

theorem uvPutUpTo_succ_of_le (more : Nat) {x : Word} (h : 128 ≤ x.toNat) :
    uvPutUpTo (more + 1) x = BitVec.ofNat 8 (x.toNat % 128 + 128) :: uvPutUpTo more (lsr32 x 7) := by
  have hor : x.toNat % 128 ||| 128 = x.toNat % 128 + 128 := by
    rw [Nat.lor_comm, Nat.add_comm]
    exact (Nat.two_pow_add_eq_or_of_lt (i := 7) (Nat.mod_lt _ (by decide)) 1).symm
  rw [uvPutUpTo, if_pos (show 0x80#32 ≤ x from BitVec.le_def.2 h), ← hor]
  congr 1
  apply BitVec.eq_of_toNat_eq
  rw [BitVec.toNat_setWidth, BitVec.toNat_or, BitVec.toNat_and, BitVec.toNat_ofNat]
  exact congrArg (fun g => (g ||| 128) % 2 ^ 8) (Nat.and_two_pow_sub_one_eq_mod x.toNat 7)

theorem uvPutUpTo_length_pos (more : Nat) (x : Word) : 0 < (uvPutUpTo more x).length := by
  cases more with
  | zero => exact Nat.one_pos
  | succ more =>
    rw [uvPutUpTo]
    split <;> exact Nat.succ_pos _

/-- `n + 1` bytes are enough if no more are allowed, or if the value has at most `n + 1` groups of 7 bits. -/
theorem uvPutUpTo_length_le_iff (more n : Nat) (x : Word) :
    (uvPutUpTo more x).length ≤ n + 1 ↔ more ≤ n ∨ x.toNat < 128 ^ (n + 1) := by
  induction more generalizing n x with
  | zero => simp [uvPutUpTo]
  | succ more ih =>
    rcases Nat.lt_or_ge x.toNat 128 with hlast | hmore
    · have hpow : 128 ^ 1 ≤ 128 ^ (n + 1) := Nat.pow_le_pow_right (by decide) (by omega)
      rw [uvPutUpTo_of_lt _ hlast, List.length_singleton]
      omega
    · rw [uvPutUpTo_succ_of_le more hmore, List.length_cons]
      cases n with
      | zero =>
        have hpos := uvPutUpTo_length_pos more (lsr32 x 7)
        omega
      | succ n =>
        rw [Nat.add_le_add_iff_right, ih, lsr32_seven_toNat, Nat.div_lt_iff_lt_mul (by decide),
          Nat.pow_succ 128 (n + 1), Nat.add_le_add_iff_right]

theorem singleByte_getD {k : Nat} {x : Word} (h : x.toNat < 128) (hk : k < [x.setWidth 8].length) :
    (([x.setWidth 8] : List Byte).getD k 0).toNat =
      x.toNat / 128 ^ k % 128 + if k + 1 < ([x.setWidth 8] : List Byte).length then 128 else 0 := by
  obtain rfl : k = 0 := Nat.lt_one_iff.1 hk
  simp [toNat_setWidth_byte h, Nat.mod_eq_of_lt h]

/-- Byte `k` holds the group `k` of 7 bits, and the continuation flag unless it is the last. -/
theorem uvPutUpTo_getD {more k : Nat} {x : Word} (hfits : x.toNat < 128 ^ (more + 1))
    (hk : k < (uvPutUpTo more x).length) :
    ((uvPutUpTo more x).getD k 0).toNat =
      x.toNat / 128 ^ k % 128 + if k + 1 < (uvPutUpTo more x).length then 128 else 0 := by
  induction more generalizing k x with
  | zero => exact singleByte_getD hfits hk
  | succ more ih =>
    rcases Nat.lt_or_ge x.toNat 128 with hlast | hmore
    · rw [uvPutUpTo_of_lt _ hlast] at hk ⊢
      exact singleByte_getD hlast hk
    · have hrest : (lsr32 x 7).toNat < 128 ^ (more + 1) := by
        rw [lsr32_seven_toNat, Nat.div_lt_iff_lt_mul (by decide)]
        exact hfits
      rw [uvPutUpTo_succ_of_le more hmore] at hk ⊢
      cases k with
      | zero =>
        have hpos := uvPutUpTo_length_pos more (lsr32 x 7)
        rw [List.getD_cons_zero, List.length_cons, if_pos (by omega), BitVec.toNat_ofNat, Nat.pow_zero, Nat.div_one]
        omega
      | succ k =>
        have hgroup : x.toNat / 128 ^ (k + 1) = (lsr32 x 7).toNat / 128 ^ k := by
          rw [lsr32_seven_toNat, Nat.div_div_eq_div_mul, Nat.pow_succ']
        simp only [List.length_cons, Nat.add_lt_add_iff_right] at hk ⊢
        rw [List.getD_cons_succ, ih hrest hk, hgroup]

/-! ## One turn of the loop of `uv_get` (R144) -/

/-- The bytes below this bound end a field at its byte `k`: no continuation flag, and in the fifth byte no bit above the
32 of the value. -/
def lastBound (k : Nat) : Nat := if k = 4 then 0x10 else 0x80

theorem lastBound_le (k : Nat) : lastBound k ≤ 128 := by
  rw [lastBound]
  split <;> decide

theorem and_F0_ne_zero_iff (b : Byte) : b &&& 0xF0#8 ≠ 0 ↔ 0x10 ≤ b.toNat := by
  revert b
  decide

/-- The group of byte `k` is added above the value of the groups before it. -/
theorem or_group_eq_add {k v : Nat} (hv : v < 128 ^ k) (b : Byte) :
    natWord v ||| ((b &&& 0x7F#8).setWidth 32 <<< (7 * k)) = natWord (v + b.toNat % 128 * 128 ^ k) := by
  have hpow : 128 ^ k = 2 ^ (7 * k) := Nat.pow_mul 2 7 k ▸ rfl
  have hgroup : (b &&& 0x7F#8).toNat = b.toNat % 128 := Nat.and_two_pow_sub_one_eq_mod b.toNat 7
  have hshift : (b &&& 0x7F#8).setWidth 32 <<< (7 * k) = BitVec.ofNat 32 ((b.toNat % 128) <<< (7 * k)) := by
    apply BitVec.eq_of_toNat_eq
    rw [BitVec.toNat_shiftLeft, BitVec.toNat_setWidth, hgroup, BitVec.toNat_ofNat,
      Nat.mod_eq_of_lt (show b.toNat % 128 < 2 ^ 32 by omega)]
  rw [hpow] at hv ⊢
  rw [hshift, natWord, ← BitVec.ofNat_or, Nat.lor_comm, ← Nat.shiftLeft_add_eq_or_of_lt hv, Nat.shiftLeft_eq,
    Nat.add_comm]
  rfl

theorem uvGetFrom_cons {k v : Nat} (hv : v < 128 ^ k) (pos : Nat) (b : Byte) (rest : List Byte) :
    uvGetFrom pos k (natWord v) (b :: rest) =
      if b.toNat < lastBound k then .ok (natWord (v + b.toNat % 128 * 128 ^ k), k + 1)
      else if k = 4 then .error ⟨.overflow, natWord pos⟩
      else uvGetFrom pos (k + 1) (natWord (v + b.toNat % 128 * 128 ^ k)) rest := by
  have hflag : b < 0x80#8 ↔ b.toNat < 0x80 := BitVec.lt_def
  simp only [uvGetFrom, and_F0_ne_zero_iff, or_group_eq_add hv, hflag, lastBound]
  rcases eq_or_ne k 4 with rfl | hk
  · by_cases hlast : b.toNat < 0x10
    · simp [hlast, Nat.not_le.2 hlast, show b.toNat < 0x80 by omega]
    · simp [hlast, Nat.not_lt.1 hlast]
  · simp [hk]

theorem add_group_lt {k v : Nat} (hv : v < 128 ^ k) (g : Nat) : v + g % 128 * 128 ^ k < 128 ^ (k + 1) := by
  have hg : g % 128 * 128 ^ k ≤ 127 * 128 ^ k := Nat.mul_le_mul_right _ (by omega)
  rw [Nat.pow_succ]
  omega

theorem add_groups_eq (v g p : Nat) : v + g % 128 * p + g / 128 * (128 * p) = v + g * p := by
  conv_rhs => rw [← Nat.mod_add_div g 128, Nat.add_mul]
  ring

/-! ## Writing and reading back (R143, R148) -/

theorem uvGetFrom_last {k v : Nat} (hv : v < 128 ^ k) {x : Word} (hlast : x.toNat < lastBound k) (pos : Nat)
    (S : List Byte) :
    uvGetFrom pos k (natWord v) ([x.setWidth 8] ++ S) = .ok (natWord (v + x.toNat * 128 ^ k), k + 1) := by
  have hlt : x.toNat < 128 := Nat.lt_of_lt_of_le hlast (lastBound_le k)
  rw [List.singleton_append, uvGetFrom_cons hv, toNat_setWidth_byte hlt, if_pos hlast, Nat.mod_eq_of_lt hlt]

/-- From any turn `k` on, the reader adds what the writer still had to write, and stops behind it. -/
theorem uvGetFrom_uvPutUpTo (pos : Nat) (S : List Byte) {more k v : Nat} {x : Word} (hturns : k + more = 4)
    (hv : v < 128 ^ k) (hfits : x.toNat * 128 ^ k < 2 ^ 32) :
    uvGetFrom pos k (natWord v) (uvPutUpTo more x ++ S) =
      .ok (natWord (v + x.toNat * 128 ^ k), k + (uvPutUpTo more x).length) := by
  induction more generalizing k v x with
  | zero =>
    obtain rfl : k = 4 := hturns
    have hlast : x.toNat < lastBound 4 := show x.toNat < 16 by omega
    exact uvGetFrom_last hv hlast pos S
  | succ more ih =>
    have hk : k ≠ 4 := by omega
    have hbound : lastBound k = 128 := if_neg hk
    rcases Nat.lt_or_ge x.toNat 128 with hlast | hmore
    · rw [uvPutUpTo_of_lt _ hlast]
      exact uvGetFrom_last hv (hbound ▸ hlast) pos S
    · have hbyte : (BitVec.ofNat 8 (x.toNat % 128 + 128)).toNat = x.toNat % 128 + 128 := by
        rw [BitVec.toNat_ofNat]
        omega
      have hrest : (lsr32 x 7).toNat * 128 ^ (k + 1) < 2 ^ 32 := by
        have := add_groups_eq 0 x.toNat (128 ^ k)
        rw [lsr32_seven_toNat, Nat.pow_succ']
        omega
      rw [uvPutUpTo_succ_of_le more hmore, List.cons_append, uvGetFrom_cons hv, hbyte, if_neg (by omega), if_neg hk,
        Nat.add_mod_right, Nat.mod_mod, ih (by omega) (add_group_lt hv _) hrest, lsr32_seven_toNat, Nat.pow_succ',
        add_groups_eq, List.length_cons, Nat.add_right_comm, Nat.add_assoc]

theorem uvGet_append_uvPut (x : Word) (P S : List Byte) :
    uvGet (P ++ uvPut x ++ S) P.length = .ok (x, (uvPut x).length) := by
  have hx := x.isLt
  have hread := uvGetFrom_uvPutUpTo P.length S (more := 4) (k := 0) (v := 0) (x := x) rfl (by decide) (by omega)
  rw [Nat.pow_zero, Nat.mul_one, Nat.zero_add, Nat.zero_add, natWord, natWord, BitVec.ofNat_toNat,
    BitVec.setWidth_eq] at hread
  rw [List.append_assoc, uvGet, List.drop_left]
  exact hread

/-- Settles O21: `uv_get` takes back turn by turn what `uv_put` wrote, and `zz_dec` inverts `zz_enc`. -/
theorem varintRoundTrip : Obligations.VarintRoundTrip := by
  intro x P S
  refine ⟨uvGet_append_uvPut x P S, ?_⟩
  rw [svGet, svPut, uvGet_append_uvPut]
  exact congrArg (fun y => Except.ok (y, _)) (zzDec_zzEnc x)

/-! ## How long a form is (R143) -/

theorem uvPut_length_le_iff (n : Nat) (x : Word) :
    (uvPut x).length ≤ n + 1 ↔ 4 ≤ n ∨ x.toNat < 128 ^ (n + 1) :=
  uvPutUpTo_length_le_iff 4 n x

theorem toNat_natWord_le (n : Nat) : (natWord n).toNat ≤ n := by
  rw [natWord, BitVec.toNat_ofNat]
  exact Nat.mod_le _ _

/-- A value that was read from `used` bytes has no more than `used` groups of 7 bits. -/
theorem toNat_lt_of_uvGetFrom {pos k v used : Nat} {x : Word} {B : List Byte} (hv : v < 128 ^ k)
    (h : uvGetFrom pos k (natWord v) B = .ok (x, used)) : k < used ∧ x.toNat < 128 ^ used := by
  induction B generalizing k v with
  | nil => cases h
  | cons b rest ih =>
    rw [uvGetFrom_cons hv] at h
    split_ifs at h
    case pos =>
      cases h
      exact ⟨Nat.lt_succ_self k, Nat.lt_of_le_of_lt (toNat_natWord_le _) (add_group_lt hv _)⟩
    case neg =>
      obtain ⟨hused, hx⟩ := ih (add_group_lt hv _) h
      exact ⟨Nat.lt_of_succ_lt hused, hx⟩

/-- Settles O22: the length and its minimality from `uvPut_length_le_iff`, as what reads as `x` from `used` bytes keeps
`x` below `128 ^ used`. -/
theorem varintShortest : Obligations.VarintShortest := by
  intro x
  refine ⟨?_, fun k hk => uvPutUpTo_getD (Nat.lt_trans x.isLt (by decide)) hk, fun B used h => ?_⟩
  · have hpos : 0 < (uvPut x).length := uvPutUpTo_length_pos 4 x
    have h1 := uvPut_length_le_iff 0 x
    have h2 := uvPut_length_le_iff 1 x
    have h3 := uvPut_length_le_iff 2 x
    have h4 := uvPut_length_le_iff 3 x
    have h5 := uvPut_length_le_iff 4 x
    split_ifs <;> omega
  · obtain ⟨hused, hx⟩ := toNat_lt_of_uvGetFrom (k := 0) (v := 0) Nat.one_pos h
    obtain ⟨n, rfl⟩ := Nat.exists_eq_succ_of_ne_zero (Nat.ne_of_gt hused)
    exact (uvPut_length_le_iff n x).2 (.inr hx)

/-! ## The zig-zag bijection (R142) -/

/-- Settles O20, by what both maps are as arithmetic on the 32-bit patterns. -/
theorem zigzagBijection : Obligations.ZigzagBijection := by
  refine ⟨fun x => ?_, zzDec_zzEnc, zzEnc_zzDec, fun x => ⟨?_, ?_⟩⟩
  · have hx := x.isLt
    rw [zzEnc_toNat, BitVec.toInt_eq_toNat_cond]
    split_ifs <;> omega
  · exact Nat.lt_trans (zzEnc x).isLt (by decide)
  · exact (uvPut_length_le_iff 4 _).2 (.inl (Nat.le_refl 4))

/-! ## What `uv_get` answers (R144) -/

/-- Byte `k` of the field at `pos`, as the obligation reads it. -/
def fieldByte (B : List Byte) (pos k : Nat) : Nat := (B.getD (pos + k) 0).toNat

/-- The value of the first `k` groups of the field at `pos`. -/
def fieldValue (B : List Byte) (pos k : Nat) : Nat :=
  ((List.range k).map fun m => fieldByte B pos m % 128 * 128 ^ m).sum

theorem fieldValue_succ (B : List Byte) (pos k : Nat) :
    fieldValue B pos (k + 1) = fieldValue B pos k + fieldByte B pos k % 128 * 128 ^ k :=
  List.sum_range_succ _ k

theorem fieldValue_lt (B : List Byte) (pos k : Nat) : fieldValue B pos k < 128 ^ k := by
  induction k with
  | zero => exact Nat.one_pos
  | succ k ih =>
    rw [fieldValue_succ]
    exact add_group_lt ih _

/-- One turn of the loop at byte `k` of the field, with the value of the groups before it. -/
theorem uvGetFrom_drop {B : List Byte} {pos k : Nat} (hk : pos + k < B.length) :
    uvGetFrom pos k (natWord (fieldValue B pos k)) (B.drop (pos + k)) =
      if fieldByte B pos k < lastBound k then .ok (natWord (fieldValue B pos (k + 1)), k + 1)
      else if k = 4 then .error ⟨.overflow, natWord pos⟩
      else uvGetFrom pos (k + 1) (natWord (fieldValue B pos (k + 1))) (B.drop (pos + (k + 1))) := by
  rw [List.drop_eq_getElem_cons hk, uvGetFrom_cons (fieldValue_lt B pos k), fieldValue_succ, fieldByte,
    List.getD_eq_getElem _ _ hk]
  rfl

theorem lt_length_of_continues {B : List Byte} {pos k : Nat} (h : 0x80 ≤ fieldByte B pos k) :
    pos + k < B.length := by
  by_contra hend
  rw [fieldByte, List.getD_eq_default _ _ (Nat.not_lt.1 hend)] at h
  exact absurd h (by decide)

/-- While the bytes continue, `uv_get` only collects their groups. -/
theorem uvGet_eq_uvGetFrom {B : List Byte} {pos k : Nat} (hk : k ≤ 4)
    (hmore : ∀ m, m < k → 0x80 ≤ fieldByte B pos m) :
    uvGet B pos = uvGetFrom pos k (natWord (fieldValue B pos k)) (B.drop (pos + k)) := by
  induction k with
  | zero => rfl
  | succ k ih =>
    have hlast := hmore k (Nat.lt_succ_self k)
    rw [ih (Nat.le_of_succ_le hk) fun m hm => hmore m (Nat.lt_succ_of_lt hm),
      uvGetFrom_drop (lt_length_of_continues hlast), if_neg (Nat.not_lt.2 (Nat.le_trans (lastBound_le k) hlast)),
      if_neg (Nat.ne_of_lt hk)]

/-- Settles O23: `uv_get` comes to the byte that decides (`uvGet_eq_uvGetFrom`), and one turn there gives the answer. -/
theorem varintReadOutcomes : Obligations.VarintReadOutcomes := by
  intro B pos
  refine ⟨fun k hk hlen hmore hlast => ?_, fun k hk hend hmore => ?_, fun hlen hmore hover => ?_⟩
  · have hbound : fieldByte B pos k < lastBound k := hlast
    rw [uvGet_eq_uvGetFrom hk hmore, uvGetFrom_drop hlen, if_pos hbound]
    rfl
  · rw [uvGet_eq_uvGetFrom hk hmore, List.drop_eq_nil_of_le hend]
    rfl
  · have hbound : ¬fieldByte B pos 4 < lastBound 4 := Nat.not_lt.2 hover
    rw [uvGet_eq_uvGetFrom (Nat.le_refl 4) hmore, uvGetFrom_drop hlen, if_neg hbound, if_pos rfl]
    rfl

end Sys2Proof.Machine
end

section
/-! PROOFS of the family 42_simple8b.md. One Simple8b word (R97 to R99, R163, R164) as numbers: what the packer writes
into it, what the unpacker reads from it, and that it reads back what was written. -/

namespace Sys2Proof.Machine

/-! ## The fields and bytes of a word (30_encoding.md R97, 00_scope.md R17) -/

theorem selField_toNat (w : U64) : (selField w).toNat = w.toNat / 2 ^ 60 := by
  have hw := w.isLt
  simp only [selField, BitVec.extractLsb'_toNat, Nat.shiftRight_eq_div_pow]
  omega

theorem be64_toBe64 (w : U64) :
    be64 (w.extractLsb' 56 8) (w.extractLsb' 48 8) (w.extractLsb' 40 8) (w.extractLsb' 32 8)
      (w.extractLsb' 24 8) (w.extractLsb' 16 8) (w.extractLsb' 8 8) (w.extractLsb' 0 8) = w := by
  simp +decide only [be64, BitVec.extractLsb'_append_extractLsb'_eq_extractLsb', BitVec.extractLsb'_eq_self]

@[simp] theorem toBe64_length (w : U64) : (toBe64 w).length = 8 := rfl

theorem flatMap_toBe64_length (ws : List U64) : (ws.flatMap toBe64).length = 8 * ws.length := by
  simp [List.length_flatMap, Nat.mul_comm]

/-! ## What the packer writes (R163) -/

/-- The data bits of a word as a number: the values are its digits in base `2 ^ wd`, the first the least. -/
def slotsValue (wd : Nat) (vs : List U64) : Nat := Nat.ofDigits (2 ^ wd) (vs.map BitVec.toNat)

theorem slotsValue_cons (wd : Nat) (v : U64) (vs : List U64) :
    slotsValue wd (v :: vs) = v.toNat + 2 ^ wd * slotsValue wd vs := Nat.ofDigits_cons

section

variable {wd : Nat} {vs : List U64} (hfits : ∀ v ∈ vs, v.toNat < 2 ^ wd)

include hfits

theorem toNat_digits_lt : ∀ d ∈ vs.map BitVec.toNat, d < 2 ^ wd := by
  simpa using hfits

theorem slotsValue_div (k : Nat) : slotsValue wd vs / 2 ^ (wd * k) = slotsValue wd (vs.drop k) := by
  rw [Nat.pow_mul, slotsValue, slotsValue, List.map_drop]
  exact Nat.ofDigits_div_pow_eq_ofDigits_drop k (Nat.two_pow_pos wd) _ (toNat_digits_lt hfits)

theorem slotsValue_lt : slotsValue wd vs < 2 ^ (vs.length * wd) := by
  have hnil := slotsValue_div hfits vs.length
  rw [List.drop_length, Nat.mul_comm] at hnil
  exact (Nat.div_eq_zero_iff_lt (Nat.two_pow_pos _)).1 hnil

/-- Slot `k` of the data bits is value `k`. -/
theorem slotsValue_slot {k : Nat} (hk : k < vs.length) :
    slotsValue wd vs / 2 ^ (wd * k) % 2 ^ wd = vs[k].toNat := by
  rw [slotsValue_div hfits, List.drop_eq_getElem_cons hk, slotsValue_cons, Nat.add_mul_mod_self_left,
    Nat.mod_eq_of_lt (hfits _ (List.getElem_mem hk))]

end

/-- The loop of R163 from slot `k` on: the slots do not overlap, so the `or` of the shifted values is their sum. -/
theorem s8Slots_eq {wd : Nat} {vs : List U64} (hfits : ∀ v ∈ vs, v.toNat < 2 ^ wd) (k : Nat) :
    s8Slots wd k vs = BitVec.ofNat 64 (2 ^ (wd * k) * slotsValue wd vs) := by
  induction vs generalizing k with
  | nil => rw [slotsValue, List.map_nil, Nat.ofDigits_nil, Nat.mul_zero]; rfl
  | cons v vs ih =>
    obtain ⟨hv, hvs⟩ := List.forall_mem_cons.1 hfits
    have hshift : v <<< (wd * k) = BitVec.ofNat 64 (v.toNat <<< (wd * k)) := by
      apply BitVec.eq_of_toNat_eq
      rw [BitVec.toNat_shiftLeft, BitVec.toNat_ofNat]
    have hlow : v.toNat <<< (wd * k) < 2 ^ (wd * (k + 1)) := by
      rw [Nat.shiftLeft_eq, Nat.mul_succ, Nat.pow_add, Nat.mul_comm]
      exact Nat.mul_lt_mul_of_pos_left hv (Nat.two_pow_pos _)
    rw [s8Slots, ih hvs, hshift, ← BitVec.ofNat_or, Nat.lor_comm, ← Nat.two_pow_add_eq_or_of_lt hlow, slotsValue_cons,
      Nat.shiftLeft_eq, Nat.mul_succ, Nat.pow_add]
    congr 1
    ring

/-- A packed word is its selector above its data bits. -/
theorem s8PackWord_toNat {tab : List (Nat × Nat)} {sel : Nat} {vs : List U64} (hsel : sel < 16)
    (hwidth : vs.length * (s8Row tab sel).2 ≤ 60) (hfits : ∀ v ∈ vs, v.toNat < 2 ^ (s8Row tab sel).2) :
    (s8PackWord tab sel vs).toNat = 2 ^ 60 * sel + slotsValue (s8Row tab sel).2 vs := by
  have hdata : slotsValue (s8Row tab sel).2 vs < 2 ^ 60 :=
    Nat.lt_of_lt_of_le (slotsValue_lt hfits) (Nat.pow_le_pow_right (by decide) hwidth)
  have hword : s8PackWord tab sel vs = BitVec.ofNat 64 (2 ^ 60 * sel ||| slotsValue (s8Row tab sel).2 vs) := by
    have hshift : BitVec.ofNat 64 sel <<< 60 = BitVec.ofNat 64 (2 ^ 60 * sel) := by
      apply BitVec.eq_of_toNat_eq
      rw [BitVec.toNat_shiftLeft, BitVec.toNat_ofNat, BitVec.toNat_ofNat, Nat.shiftLeft_eq]
      omega
    rw [s8PackWord, s8Slots_eq hfits, hshift, Nat.mul_zero, Nat.pow_zero, Nat.one_mul, BitVec.ofNat_or]
  rw [hword, ← Nat.two_pow_add_eq_or_of_lt hdata, BitVec.toNat_ofNat]
  omega

theorem slotsValue_zeros (wd : Nat) {vs : List U64} (hzero : ∀ v ∈ vs, v = 0) : slotsValue wd vs = 0 := by
  rw [slotsValue, List.eq_replicate_of_mem hzero, List.map_replicate]
  exact Nat.ofDigits_replicate_zero

/-- Zeros leave the data bits 0, whatever the row. -/
theorem s8PackWord_zeros (tab : List (Nat × Nat)) (sel : Nat) {vs : List U64} (hzero : ∀ v ∈ vs, v = 0) :
    s8PackWord tab sel vs = BitVec.ofNat 64 sel <<< 60 := by
  have hfits : ∀ v ∈ vs, v.toNat < 2 ^ (s8Row tab sel).2 := fun v hv => by
    rw [hzero v hv]
    exact Nat.two_pow_pos _
  rw [s8PackWord, s8Slots_eq hfits, slotsValue_zeros _ hzero, Nat.mul_zero]
  exact BitVec.or_zero

/-! ## What the unpacker reads (R164) -/

theorem s8UnpackWord_length (tab : List (Nat × Nat)) (w : U64) :
    (s8UnpackWord tab w).length = (s8Row tab (w.toNat / 2 ^ 60)).1 := by
  rw [s8UnpackWord, s8UnpackRow_length, selField_toNat]

/-- Slot `k` is read from the bits `W·(k+1)-1 : W·k`. -/
theorem s8UnpackRow_getElem_toNat {tab : List (Nat × Nat)} {sel k : Nat} {w : U64}
    (hwidth : (s8Row tab sel).2 ≤ 60) (hk : k < (s8UnpackRow tab sel w).length) :
    (s8UnpackRow tab sel w)[k].toNat =
      w.toNat / 2 ^ ((s8Row tab sel).2 * k) % 2 ^ (s8Row tab sel).2 := by
  have hmask : 2 ^ (s8Row tab sel).2 - 1 < 2 ^ 64 :=
    Nat.lt_of_le_of_lt (Nat.sub_le _ _) (Nat.pow_lt_pow_right (by decide) (by omega))
  simp only [s8UnpackRow, List.getElem_map, List.getElem_range, BitVec.toNat_and, BitVec.toNat_ushiftRight,
    BitVec.toNat_ofNat, Nat.mod_eq_of_lt hmask, Nat.and_two_pow_sub_one_eq_mod, Nat.shiftRight_eq_div_pow]

/-! ## A word reads back -/

theorem slot_of_low_bits {D a b : Nat} (h : a + b ≤ 60) (sel : Nat) :
    (2 ^ 60 * sel + D) / 2 ^ a % 2 ^ b = D / 2 ^ a % 2 ^ b := by
  have hpow : 2 ^ 60 * sel = 2 ^ a * (2 ^ b * (2 ^ (60 - (a + b)) * sel)) := by
    rw [← Nat.mul_assoc, ← Nat.mul_assoc, ← Nat.pow_add, ← Nat.pow_add, Nat.add_sub_cancel' h]
  rw [hpow, Nat.mul_add_div (Nat.two_pow_pos a), Nat.mul_add_mod]

section

variable {tab : List (Nat × Nat)} {sel : Nat} {vs : List U64} (h : s8tabLegal tab = true) (hsel : sel < 16)
  (hlen : vs.length = (s8Row tab sel).1) (hfits : ∀ v ∈ vs, v.toNat < 2 ^ (s8Row tab sel).2)

include h hsel hlen hfits

theorem s8PackWord_sel : (s8PackWord tab sel vs).toNat / 2 ^ 60 = sel := by
  obtain ⟨-, hbits⟩ := s8Row_legal h sel
  rw [← hlen] at hbits
  have hdata := Nat.lt_of_lt_of_le (slotsValue_lt hfits) (Nat.pow_le_pow_right (by decide) hbits)
  rw [s8PackWord_toNat hsel hbits hfits]
  omega

theorem s8UnpackWord_s8PackWord : s8UnpackWord tab (s8PackWord tab sel vs) = vs := by
  obtain ⟨hpos, hbits⟩ := s8Row_legal h sel
  have hwidth : (s8Row tab sel).2 ≤ 60 := Nat.le_trans (Nat.le_mul_of_pos_left _ hpos) hbits
  rw [s8UnpackWord, selField_toNat, s8PackWord_sel h hsel hlen hfits]
  refine List.ext_getElem (by rw [s8UnpackRow_length, hlen]) fun k hk hkv => BitVec.eq_of_toNat_eq ?_
  have hslot : (s8Row tab sel).2 * k + (s8Row tab sel).2 ≤ 60 := by
    rw [← Nat.mul_succ, Nat.mul_comm]
    exact Nat.le_trans (Nat.mul_le_mul_right _ (hlen ▸ hkv)) hbits
  rw [s8UnpackRow_getElem_toNat hwidth hk, s8PackWord_toNat hsel (hlen ▸ hbits) hfits, slot_of_low_bits hslot,
    slotsValue_slot hfits hkv]

end

end Sys2Proof.Machine
end

section
/-! PROOFS of the family 42_simple8b.md. Lists of values (R165 to R171): which selector the packer takes, what a packing
is, what both unpackers make of one, and how many words it has. -/

namespace Sys2Proof.Machine

/-! ## The choice of a selector (R165) -/

theorem s8Candidate_iff (tab : List (Nat × Nat)) (vs : List U64) (sel : Nat) :
    s8Candidate tab vs sel = true ↔
      (s8Row tab sel).1 ≤ vs.length ∧ ∀ v ∈ vs.take (s8Row tab sel).1, v.toNat < 2 ^ (s8Row tab sel).2 := by
  simp only [s8Candidate, s8Fits, Bool.and_eq_true, decide_eq_true_eq, List.all_eq_true]

/-- The first candidate is the choice. -/
theorem s8Choose_eq {tab : List (Nat × Nat)} (h : s8tabLegal tab = true) {vs : List U64} (hne : vs ≠ [])
    (hv : ∀ v ∈ vs, v.toNat < 2 ^ 60) {sel : Nat} (hcand : s8Candidate tab vs sel = true)
    (hfirst : ∀ k, k < sel → s8Candidate tab vs k = false) : s8Choose tab vs = sel := by
  obtain ⟨-, hchoice, hleast⟩ := s8Choose_spec h hne hv
  rcases Nat.lt_trichotomy (s8Choose tab vs) sel with hlt | heq | hgt
  · exact absurd hchoice (by rw [hfirst _ hlt]; decide)
  · exact heq
  · exact absurd hcand (by rw [hleast _ hgt]; decide)

/-- Settles O25: the choice (`s8Choose_spec`) and one round of the packing loop (`s8PackWords_cons`). -/
theorem packerIsGreedy : Obligations.PackerIsGreedy := by
  intro tab vs h hne hv fits
  obtain ⟨hsel, hcand, hleast⟩ := s8Choose_spec h hne hv
  have hrow : tab[s8Choose tab vs]? = some (s8Row tab (s8Choose tab vs)) := by
    rw [← s8tabLegal_length h] at hsel
    rw [s8Row, List.getD_eq_getElem _ _ hsel, List.getElem?_eq_getElem hsel]
  refine ⟨s8Choose tab vs, _, hrow, (s8Candidate_iff _ _ _).1 hcand, fun k row hk hget hfits => ?_,
    s8PackWords_cons h hne⟩
  rw [← s8Row_of_getElem? hget] at hfits
  exact Bool.false_ne_true ((hleast k hk).symm.trans ((s8Candidate_iff _ _ _).2 hfits))

/-! ## Packings (R166) -/

/-- The words `ws` pack the values `vs` in some way: each word holds as many values as its row has slots, and they fit. -/
inductive Packing (tab : List (Nat × Nat)) : List U64 → List U64 → Prop
  | nil : Packing tab [] []
  | word {sel : Nat} {us vs ws : List U64} (hsel : sel < 16) (hlen : us.length = (s8Row tab sel).1)
      (hfits : ∀ u ∈ us, u.toNat < 2 ^ (s8Row tab sel).2) (hrest : Packing tab vs ws) :
      Packing tab (us ++ vs) (s8PackWord tab sel us :: ws)

theorem packing_s8PackWords {tab : List (Nat × Nat)} (h : s8tabLegal tab = true) (vs : List U64)
    (hv : ∀ v ∈ vs, v.toNat < 2 ^ 60) : Packing tab vs (s8PackWords tab vs) := by
  by_cases hne : vs = []
  · exact hne ▸ .nil
  · obtain ⟨hsel, hcand, -⟩ := s8Choose_spec h hne hv
    obtain ⟨hlen, hfits⟩ := (s8Candidate_iff _ _ _).1 hcand
    have hshort : (vs.drop (s8Row tab (s8Choose tab vs)).1).length < vs.length := by
      have hrow := (s8Row_legal h (s8Choose tab vs)).1
      rw [List.length_drop]
      omega
    have hrest := packing_s8PackWords h (vs.drop (s8Row tab (s8Choose tab vs)).1) fun v hm =>
      hv v (List.mem_of_mem_drop hm)
    have hword := Packing.word hsel (List.length_take_of_le hlen) hfits hrest
    rwa [List.take_append_drop, ← s8PackWords_cons h hne] at hword
termination_by vs.length
decreasing_by exact hshort

theorem s8Pack_of_lt {tab : List (Nat × Nat)} {vs : List U64} (hv : ∀ v ∈ vs, v.toNat < 2 ^ 60) :
    s8Pack tab vs = .ok (s8PackWords tab vs) := by
  have hnone : vs.findIdx? (fun v => 2 ^ 60 ≤ v.toNat) = none := by
    simpa [List.findIdx?_eq_none_iff] using hv
  rw [s8Pack, hnone]

/-! ## The round trip (R169 to R171) -/

theorem s8UntilFrom_zero (tab : List (Nat × Nat)) (B : List Byte) (pos : Nat) :
    s8UntilFrom tab B pos 0 = .ok ([], 0) := by
  unfold s8UntilFrom
  split <;> rfl

/-- One word of R169: its values are taken, and those still wanted come from the bytes after it. -/
theorem s8UntilFrom_toBe64 {tab : List (Nat × Nat)} {B : List Byte} {pos n used : Nat} {w : U64} {more : List U64}
    (hn : n ≠ 0)
    (hrest : s8UntilFrom tab B (pos + 8) (n - (s8UnpackWord tab w).length) = .ok (more, used)) :
    s8UntilFrom tab (toBe64 w ++ B) pos n = .ok ((s8UnpackWord tab w).take n ++ more, used + 1) := by
  simp only [toBe64, List.cons_append, List.nil_append, s8UntilFrom, be64_toBe64, if_neg hn, hrest]

section

variable {tab : List (Nat × Nat)} {vs ws : List U64} (h : s8tabLegal tab = true) (hp : Packing tab vs ws)

include h hp

theorem Packing.s8UnpackAll_eq : s8UnpackAll tab ws = vs := by
  induction hp with
  | nil => rfl
  | word hsel hlen hfits _ ih =>
    rw [← ih, s8UnpackAll, List.flatMap_cons, s8UnpackWord_s8PackWord h hsel hlen hfits]
    rfl

theorem Packing.s8UntilFrom_eq (S : List Byte) (pos : Nat) :
    s8UntilFrom tab (ws.flatMap toBe64 ++ S) pos vs.length = .ok (vs, ws.length) := by
  induction hp generalizing pos with
  | nil => exact s8UntilFrom_zero tab S pos
  | @word sel us vs ws hsel hlen hfits _ ih =>
    have hback := s8UnpackWord_s8PackWord h hsel hlen hfits
    have hpos := (s8Row_legal h sel).1
    have hrest : s8UntilFrom tab (ws.flatMap toBe64 ++ S) (pos + 8)
        ((us ++ vs).length - (s8UnpackWord tab (s8PackWord tab sel us)).length) = .ok (vs, ws.length) := by
      rw [hback, List.length_append, Nat.add_sub_cancel_left]
      exact ih (pos + 8)
    rw [List.flatMap_cons, List.append_assoc, s8UntilFrom_toBe64 (by rw [List.length_append]; omega) hrest, hback,
      List.take_of_length_le (by rw [List.length_append]; omega)]
    rfl

end

/-- Settles O28: what the packer writes is a packing, and both unpackers take a packing back. -/
theorem sequenceRoundTrip : Obligations.SequenceRoundTrip := by
  intro tab vs h hv
  have hp := packing_s8PackWords h vs hv
  refine ⟨_, s8Pack_of_lt hv, hp.s8UnpackAll_eq h, fun P S => ?_⟩
  rw [s8UnpackUntil, List.append_assoc, List.drop_left]
  exact hp.s8UntilFrom_eq h S P.length

/-! ## How many words a packing has (R168) -/

theorem s8tabDefault_legal : s8tabLegal s8tabDefault = true := by decide

theorem s8Row_s8tabDefault_le (sel : Nat) : (s8Row s8tabDefault sel).1 ≤ 240 := by
  have hall : ∀ row ∈ s8tabDefault, row.1 ≤ 240 := by decide
  cases hs : s8tabDefault[sel]? with
  | none => simp [s8Row, hs]
  | some row => exact s8Row_of_getElem? hs ▸ hall row (List.mem_of_getElem? hs)

theorem Packing.length_le {tab : List (Nat × Nat)} {vs ws : List U64} (h : s8tabLegal tab = true)
    (hp : Packing tab vs ws) : ws.length ≤ vs.length := by
  induction hp with
  | nil => exact Nat.le_refl 0
  | @word sel us vs ws _ hlen _ _ ih =>
    have hpos := (s8Row_legal h sel).1
    rw [List.length_cons, List.length_append]
    omega

theorem Packing.le_length {vs ws : List U64} (hp : Packing s8tabDefault vs ws) : vs.length ≤ 240 * ws.length := by
  induction hp with
  | nil => exact Nat.le_refl 0
  | @word sel us vs ws _ hlen _ _ ih =>
    have hrow := s8Row_s8tabDefault_le sel
    rw [List.length_cons, List.length_append]
    omega

/-- Settles O27: a packing takes 1 to 240 values a word, as every row of the default table has 1 to 240 slots. -/
theorem packedWordCount : Obligations.PackedWordCount := by
  intro vs hv ws hpack
  obtain rfl : s8PackWords s8tabDefault vs = ws := Except.ok.inj ((s8Pack_of_lt hv).symm.trans hpack)
  have hp := packing_s8PackWords s8tabDefault_legal vs hv
  have hmost := hp.length_le s8tabDefault_legal
  have hleast := hp.le_length
  refine ⟨by omega, hmost, ?_, fun w _ => ?_⟩
  · rw [flatMap_toBe64_length]
    omega
  · rw [s8UnpackWord_length]
    exact ⟨(s8Row_legal s8tabDefault_legal _).1, s8Row_s8tabDefault_le _⟩

/-! ## Runs of zeros (R167) -/

theorem s8Candidate_zeros_iff {tab : List (Nat × Nat)} {sel n : Nat} (hrow : s8Row tab sel = (n, 0))
    (vs : List U64) : s8Candidate tab vs sel = true ↔ n ≤ vs.length ∧ ∀ v ∈ vs.take n, v = 0 := by
  have hzero (v : U64) : v.toNat < 2 ^ 0 ↔ v = 0 := by
    rw [← BitVec.toNat_inj]
    exact Nat.lt_one_iff
  simp only [s8Candidate_iff, hrow, hzero]

/-- If a row of slots of width 0 is chosen, the word is the selector alone. -/
theorem s8PackWords_zeros {tab : List (Nat × Nat)} (h : s8tabLegal tab = true) {vs : List U64} (hne : vs ≠ [])
    {sel n : Nat} {w : U64} (hrow : s8Row tab sel = (n, 0)) (hw : BitVec.ofNat 64 sel <<< 60 = w)
    (hchoose : s8Choose tab vs = sel) (hzero : ∀ v ∈ vs.take n, v = 0) :
    s8PackWords tab vs = w :: s8PackWords tab (vs.drop n) := by
  rw [s8PackWords_cons h hne, hchoose, hrow, s8PackWord_zeros tab sel hzero, hw]

/-- The first word's selector is the choice. -/
theorem s8PackWords_sel {tab : List (Nat × Nat)} (h : s8tabLegal tab = true) {vs : List U64} (hne : vs ≠ [])
    (hv : ∀ v ∈ vs, v.toNat < 2 ^ 60) :
    ∃ w ws, s8PackWords tab vs = w :: ws ∧ w.toNat / 2 ^ 60 = s8Choose tab vs := by
  obtain ⟨hsel, hcand, -⟩ := s8Choose_spec h hne hv
  obtain ⟨hlen, hfits⟩ := (s8Candidate_iff _ _ _).1 hcand
  exact ⟨_, _, s8PackWords_cons h hne, s8PackWord_sel h hsel (List.length_take_of_le hlen) hfits⟩

/-- Settles O26: rows 0 and 1 of the default table have 240 and 120 slots of width 0, so each is a candidate only for
as many zeros, and the packer takes the first candidate. -/
theorem zeroRunsTakeSelectors : Obligations.ZeroRunsTakeSelectors := by
  refine ⟨fun vs hne hv => ?_, by decide +kernel, by decide +kernel⟩
  have hcand0 := s8Candidate_zeros_iff (sel := 0) (n := 240) (tab := s8tabDefault) rfl vs
  have hcand1 := s8Candidate_zeros_iff (sel := 1) (n := 120) (tab := s8tabDefault) rfl vs
  refine ⟨fun hlen hzero => ?_, fun hno hlen hzero => ?_, fun hno => ?_⟩
  · have hchoose := s8Choose_eq s8tabDefault_legal hne hv (hcand0.2 ⟨hlen, hzero⟩) (by simp)
    exact s8PackWords_zeros s8tabDefault_legal hne rfl (by decide) hchoose hzero
  · have hfirst : ∀ k, k < 1 → s8Candidate s8tabDefault vs k = false := fun k hk => by
      obtain rfl := Nat.lt_one_iff.1 hk
      exact Bool.eq_false_iff.2 fun hc => hno (hcand0.1 hc)
    have hchoose := s8Choose_eq s8tabDefault_legal hne hv (hcand1.2 ⟨hlen, hzero⟩) hfirst
    exact s8PackWords_zeros s8tabDefault_legal hne rfl (by decide) hchoose hzero
  · obtain ⟨w, ws, hwords, hsel⟩ := s8PackWords_sel s8tabDefault_legal hne hv
    obtain ⟨-, hcand, -⟩ := s8Choose_spec s8tabDefault_legal hne hv
    refine ⟨w, ws, hwords, hsel ▸ ?_⟩
    by_contra hlow
    obtain h0 | h1 : s8Choose s8tabDefault vs = 0 ∨ s8Choose s8tabDefault vs = 1 := by omega
    · obtain ⟨hlen, hzero⟩ := hcand0.1 (h0 ▸ hcand)
      refine hno ⟨by omega, fun v hm => hzero v ?_⟩
      exact List.take_subset_take_left vs (by decide) hm
    · exact hno (hcand1.1 (h1 ▸ hcand))

end Sys2Proof.Machine
end

section
/-! PROOFS of the family 42_simple8b.md. The commands `S8PACK`, `S8UNPK` and `S8UNPKN` read no state and write none but
`FAULTS` (R172). -/

namespace Sys2Proof.Machine

/-- With the straps `p`, `i` answers the same in every state, sets the same `FAULTS` bits and leaves the rest. -/
def AnswersAlike (i : Instr) (p : Straps) : Prop :=
  ∃ r bits, ∀ s : State, s.straps = p →
    exec i s = .next { s with responses := s.responses ++ [r], faults := s.faults ||| bits }

theorem AnswersAlike.of_respond {i : Instr} {p : Straps} (ws : List Word)
    (h : ∀ s : State, s.straps = p → exec i s = .next (respond ws s)) : AnswersAlike i p :=
  ⟨responsePacket 0x00#8 ws, 0, fun s hs => by simp [h s hs, respond]⟩

theorem AnswersAlike.of_raiseFault {i : Instr} {p : Straps} (f : FaultKind) (info : Word)
    (h : ∀ s : State, s.straps = p → exec i s = .next (raiseFault f info s)) : AnswersAlike i p :=
  ⟨responsePacket f.code [info], _, fun s hs => by rw [h s hs, raiseFault, stickyFaults]⟩

theorem s8pack_answersAlike (vs : List U64) (p : Straps) : AnswersAlike (.s8pack vs) p := by
  cases hpack : s8Pack p.s8tab vs with
  | ok ws => exact .of_respond (packU64s ws) fun s hs => by rw [exec, execS8pack, hs, hpack]
  | error f => exact .of_raiseFault f.kind f.info fun s hs => by rw [exec, execS8pack, hs, hpack]

theorem s8unpk_answersAlike (ws : List U64) (p : Straps) : AnswersAlike (.s8unpk ws) p := by
  by_cases hcount : countFits 0 (s8UnpackAll p.s8tab ws).length = true
  · exact .of_respond (packU64s (s8UnpackAll p.s8tab ws)) fun s hs => by
      rw [exec, execS8unpk, answerUnpacked, hs, if_pos hcount]
  · exact .of_raiseFault .badOperand (natWord ws.length) fun s hs => by
      rw [exec, execS8unpk, answerUnpacked, hs, if_neg hcount]

theorem s8unpkn_answersAlike (n : Word) (ws : List U64) (p : Straps) : AnswersAlike (.s8unpkn n ws) p := by
  cases huntil : s8UnpackUntil p.s8tab (ws.flatMap toBe64) 0 n.toNat with
  | error f => exact .of_raiseFault f.kind f.info fun s hs => by rw [exec, execS8unpkn, hs, huntil]
  | ok found =>
    obtain ⟨vs, used⟩ := found
    by_cases hcount : countFits 1 vs.length = true
    · exact .of_respond (natWord used :: packU64s vs) fun s hs => by
        simp only [exec, execS8unpkn, hs, huntil, if_pos hcount]
    · exact .of_raiseFault .badOperand n fun s hs => by
        simp only [exec, execS8unpkn, hs, huntil, if_neg hcount]

/-- Settles O33: each command answers alike in all states with the straps of `s`, so in `s` and in `s'`. -/
theorem s8CommandsArePure : Obligations.S8CommandsArePure := by
  intro i hi s s' hstraps
  have halike : AnswersAlike i s.straps := by
    obtain ⟨vs, rfl⟩ | ⟨ws, rfl⟩ | ⟨n, ws, rfl⟩ := hi
    · exact s8pack_answersAlike vs _
    · exact s8unpk_answersAlike ws _
    · exact s8unpkn_answersAlike n ws _
  obtain ⟨r, bits, hexec⟩ := halike
  exact ⟨r, bits, hexec s rfl, hexec s' hstraps⟩

end Sys2Proof.Machine
end

section
/-! PROOFS of the family 43_predictor.md. The successive differences of a sequence, in either mode: the closed forms of
R204, the layers of `PREV` (R205) and the layers of `DSUM` (R216) are all entries of their one table. -/

namespace Sys2Proof.Machine

/-! ## Successive differences (43_predictor.md R203, R204) -/

/-- The `k`-th successive difference of the sequence `x` that ends at `x j`, taken with the mode's operator. -/
def difference (xor : Bool) (x : Nat → Word) : Nat → Nat → Word
  | 0, j => x j
  | k + 1, j => ominus xor (difference xor x k j) (difference xor x k (j - 1))

/-- The mode operators are inverse to each other (00_scope.md R14, 90_conflicts.md C1). -/
theorem oplus_ominus (xor : Bool) (a b : Word) : oplus xor b (ominus xor a b) = a := by
  cases xor
  · simp [oplus, ominus, add32, sub32]
  · simp [oplus, ominus, xor32, BitVec.xor_comm a b]

@[simp] theorem oplus_zero_left (xor : Bool) (a : Word) : oplus xor 0 a = a := by
  cases xor <;> simp [oplus, add32, xor32]

/-- One layer rebuilt from the layer above: what the cascade of R212 does. -/
theorem oplus_difference (xor : Bool) (x : Nat → Word) (k j : Nat) :
    oplus xor (difference xor x k j) (difference xor x (k + 1) (j + 1)) = difference xor x k (j + 1) :=
  oplus_ominus xor _ _

/-- The table of R204: the residual of sample `j` is the difference of order `j`, at most 3. -/
theorem closedResidual_eq_difference (xor : Bool) (x : Nat → Word) (j : Nat) :
    closedResidual xor x j = difference xor x (min j 3) j := by
  have cancel (a b : Word) : a ^^^ (a ^^^ b) = b := by rw [← BitVec.xor_assoc]; simp
  match j, xor with
  | 0, _ => rfl
  | 1, _ => rfl
  | 2, false =>
    show x 2 - 2 * x 1 + x 0 = x 2 - x 1 - (x 1 - x 0)
    ring
  | 2, true =>
    show x 2 ^^^ x 0 = x 2 ^^^ x 1 ^^^ (x 1 ^^^ x 0)
    rw [BitVec.xor_assoc, cancel]
  | j + 3, false =>
    rw [Nat.min_eq_right (Nat.le_add_left 3 j)]
    show x (j + 3) - 3 * x (j + 2) + 3 * x (j + 1) - x j =
      x (j + 3) - x (j + 2) - (x (j + 2) - x (j + 1)) - (x (j + 2) - x (j + 1) - (x (j + 1) - x j))
    ring
  | j + 3, true =>
    rw [Nat.min_eq_right (Nat.le_add_left 3 j)]
    show x (j + 3) ^^^ x (j + 2) ^^^ x (j + 1) ^^^ x j =
      x (j + 3) ^^^ x (j + 2) ^^^ (x (j + 2) ^^^ x (j + 1)) ^^^ (x (j + 2) ^^^ x (j + 1) ^^^ (x (j + 1) ^^^ x j))
    simp only [BitVec.xor_assoc, cancel]
    rw [← BitVec.xor_assoc (x (j + 1)), BitVec.xor_comm (x (j + 1)) (x (j + 2)), BitVec.xor_assoc]

/-! ## Reconstruction of one channel (43_predictor.md R211, R212, R216) -/

/-- In `t` the samples `0 .. n-1` of channel `i`, whose sequence is `x`, have been reconstructed: `OUT` holds them, and
`DSUM` the differences that end at the last of them, up to order `min (n - 1) 2`. -/
structure Reconstructed (xor : Bool) (i : Nat) (x : Nat → Word) (n : Nat) (t : State) : Prop where
  mode : t.ctrlXor = xor
  layers : ∀ k, t.dsumAt k i = if k + 1 < min n 3 then difference xor x (k + 1) (n - 1) else 0
  values : ∀ j, j < n → t.outValueAt j i = x j

theorem Reconstructed.start {t : State} (i : Nat) (x : Nat → Word) (h : ∀ k, t.dsumAt k i = 0) :
    Reconstructed t.ctrlXor i x 0 t :=
  ⟨rfl, fun k => by simp [h], fun j hj => absurd hj (Nat.not_lt_zero j)⟩

theorem reconstruct_ctrlXor (j i : Nat) (r : Word) (s : State) : (reconstruct j i r s).ctrlXor = s.ctrlXor := by
  obtain ⟨d, o, h⟩ := reconstruct_frame j i r s
  rw [h]

/-- Channels do not interact (R210). -/
theorem Reconstructed.other_channel {xor : Bool} {i i' n : Nat} {x : Nat → Word} {t : State}
    (h : Reconstructed xor i x n t) (hne : i' ≠ i) (j : Nat) (r : Word) :
    Reconstructed xor i x n (reconstruct j i' r t) where
  mode := by rw [reconstruct_ctrlXor, h.mode]
  layers k := by
    rw [reconstruct_dsumAt, ← h.layers]
    split
    · rfl
    · rename_i hj
      rw [accumulate_dsumAt _ _ _ _ hj, if_neg hne]
  values j' hj' := by
    rw [reconstruct_outValueAt, if_neg (fun e => hne e.2), h.values j' hj']

/-- What accumulating the residual of sample `n` makes of the layers of `DSUM`: each takes the difference that ends at
that sample (R212, R213). -/
theorem Reconstructed.accumulate_layers {xor : Bool} {i n : Nat} {x : Nat → Word} {t : State}
    (h : Reconstructed xor i x (n + 1) t) (k : Nat) :
    (accumulate (n + 1) i (closedResidual xor x (n + 1)) t).dsumAt k i =
      if k + 1 < min (n + 2) 3 then difference xor x (k + 1) (n + 1) else 0 := by
  have h0 := h.layers 0
  have h1 := h.layers 1
  rw [accumulate_dsumAt _ _ _ _ (Nat.succ_ne_zero n), if_pos rfl, h.mode, closedResidual_eq_difference]
  match n with
  | 0 =>
    rw [if_neg (by decide)] at h0
    rw [if_pos rfl, h0, oplus_zero_left, h.layers]
    match k with
    | 0 => rfl
    | k + 1 => rw [if_neg (Nat.succ_ne_zero k), if_neg (by omega), if_neg (by omega)]
  | n + 1 =>
    have hupper : oplus xor (t.dsumAt 1 i) (difference xor x (min (n + 1 + 1) 3) (n + 1 + 1)) =
        difference xor x 2 (n + 1 + 1) := by
      match n with
      | 0 => rw [h1, if_neg (by decide), oplus_zero_left]; rfl
      | n + 1 => rw [h1, if_pos (by omega), Nat.min_eq_right (by omega)]; exact oplus_difference xor x 2 _
    have hlower : oplus xor (t.dsumAt 0 i) (difference xor x 2 (n + 1 + 1)) = difference xor x 1 (n + 1 + 1) := by
      rw [h0, if_pos (by omega)]
      exact oplus_difference xor x 1 _
    rw [if_neg (by omega), hupper, hlower, h.layers]
    match k with
    | 0 => rw [if_neg (by decide), if_pos rfl, if_pos (by omega)]
    | 1 => rw [if_pos rfl, if_pos (by omega)]
    | k + 2 => rw [if_neg (by omega), if_neg (by omega), if_neg (by omega), if_neg (by omega)]

/-- Reconstruction of the next sample of the channel from the residual that R204 gives (R211, R212). -/
theorem Reconstructed.next {xor : Bool} {i n : Nat} {x : Nat → Word} {t : State} (h : Reconstructed xor i x n t) :
    Reconstructed xor i x (n + 1) (reconstruct n i (closedResidual xor x n) t) where
  mode := by rw [reconstruct_ctrlXor, h.mode]
  layers k := by
    rw [reconstruct_dsumAt]
    match n with
    | 0 => rw [if_pos rfl, h.layers, if_neg (by omega), if_neg (by omega)]
    | n + 1 => rw [if_neg (Nat.succ_ne_zero n), h.accumulate_layers k]; rfl
  values j hj := by
    rw [reconstruct_outValueAt]
    by_cases hlast : n = j
    · subst hlast
      rw [if_pos ⟨rfl, rfl⟩]
      match n with
      | 0 => rfl
      | n + 1 =>
        rw [if_neg (Nat.succ_ne_zero n), h.accumulate_layers 0, if_pos (by omega), h.mode, h.values _ (by omega)]
        exact oplus_difference xor x 0 n
    · rw [if_neg (fun e => hlast e.1), h.values j (by omega)]

/-- Reconstruction along any list of places that visits the next samples of channel `i` in ascending order (R210). -/
theorem Reconstructed.rebuild_channel {xor : Bool} {i : Nat} {x : Nat → Word} {r : Nat → Nat → Word}
    (hr : ∀ j, r j i = closedResidual xor x j) {m : Nat} (ps : List (Nat × Nat)) {n : Nat} {t : State}
    (hps : (ps.filter fun p => p.2 == i).map Prod.fst = List.range' n m) (h : Reconstructed xor i x n t) :
    Reconstructed xor i x (n + m) (rebuild r ps t) := by
  induction ps generalizing n m t with
  | nil =>
    have hm : m = 0 := by simpa using (congrArg List.length hps).symm
    exact hm ▸ h
  | cons p ps ih =>
    by_cases hp : p.2 = i
    · rw [List.filter_cons_of_pos (by simp [hp]), List.map_cons] at hps
      match m with
      | 0 => cases hps
      | m + 1 =>
        rw [List.range'_succ, List.cons.injEq] at hps
        have hnext := ih hps.2 h.next
        rw [rebuild, hp, hr, hps.1, ← Nat.add_assoc, Nat.add_right_comm]
        exact hnext
    · rw [List.filter_cons_of_neg (by simp [hp])] at hps
      exact ih hps (h.other_channel hp _ _)

/-- After reconstruction in an order R210 allows, every channel has all its samples back. -/
theorem reconstructed_of_legalOrder {xs : List Sample} {c : Nat} {order : List (Nat × Nat)} {s : State}
    (ref : Nat → Word) (hdsum : ∀ k i, s.dsumAt k i = 0) (horder : LegalOrder xs.length c order) {i : Nat}
    (hi : i < c) :
    Reconstructed s.ctrlXor i (reduced ref xs i) xs.length (rebuild (residualAt s.ctrlXor ref xs) order s) := by
  have hps := horder.2 i hi
  rw [List.range_eq_range'] at hps
  have h := Reconstructed.rebuild_channel (r := residualAt s.ctrlXor ref xs) (fun _ => rfl) order hps
    (Reconstructed.start i (reduced ref xs i) fun k => hdsum k i)
  rwa [Nat.zero_add] at h

end Sys2Proof.Machine
end

section
/-! PROOFS of the family 43_predictor.md. The spatial fixup (R214, R215), and reconstruction and fixup together as the
inverse of the spatial stage and the predictor (R217). -/

namespace Sys2Proof.Machine

theorem hasRef_iff (s : State) (i : Nat) : hasRef s i = true ↔ 0 ≤ (s.srefAt i).toInt := decide_eq_true_iff

theorem hasRef_of_noRef {s : State} {i : Nat} (h : s.srefAt i = noRef) : hasRef s i = false := by
  rw [hasRef, h]; rfl

/-- A reference channel is a channel of the block and has no reference of its own (10_state.md R37 (6)). -/
theorem SpatialLegal.reference {s : State} (h : SpatialLegal s) {i : Nat} (hi : hasRef s i = true) :
    (s.srefAt i).toNat < s.straps.C ∧ hasRef s (s.srefAt i).toNat = false := by
  rcases h i with hno | ⟨-, -, hlt, -, hno⟩
  · rw [hasRef_of_noRef hno] at hi
    cases hi
  · exact ⟨hlt, hasRef_of_noRef hno⟩

theorem fixupAt_outValueAt (j i : Nat) (s : State) (j' i' : Nat) :
    (fixupAt j i s).outValueAt j' i' =
      if (j, i) = (j', i') ∧ hasRef s i = true then add32 (s.outValueAt j i) (s.outValueAt j (s.srefAt i).toNat)
      else s.outValueAt j' i' := by
  unfold fixupAt
  by_cases h : hasRef s i = true
  · rw [if_pos h, setOutValue_outValueAt]
    simp only [Prod.mk.injEq, h, and_true]
  · rw [if_neg h, if_neg fun e => h e.2]

/-- Fixup at the places of a list, each once: a value whose channel has a reference has the reference channel's value
added, the one before the fixup, since a reference has no reference of its own (R214). -/
theorem foldl_fixupAt_outValueAt {ps : List (Nat × Nat)} (hps : ps.Nodup) {s : State}
    (hrefs : ∀ i, hasRef s i = true → hasRef s (s.srefAt i).toNat = false) (j i : Nat) :
    (ps.foldl (fun s' ji => fixupAt ji.1 ji.2 s') s).outValueAt j i =
      if (j, i) ∈ ps ∧ hasRef s i = true then add32 (s.outValueAt j i) (s.outValueAt j (s.srefAt i).toNat)
      else s.outValueAt j i := by
  induction ps generalizing s with
  | nil => simp
  | cons p ps ih =>
    obtain ⟨hp, hps⟩ := List.nodup_cons.1 hps
    obtain ⟨o, hframe⟩ := fixupAt_frame p.1 p.2 s
    have hsref : (fixupAt p.1 p.2 s).srefAt = s.srefAt := by rw [hframe]; rfl
    have hhas : hasRef (fixupAt p.1 p.2 s) = hasRef s := by rw [hframe]; rfl
    have hrest := ih (s := fixupAt p.1 p.2 s) hps (by rw [hsref, hhas]; exact hrefs)
    rw [hsref, hhas] at hrest
    rw [List.foldl_cons, hrest]
    by_cases hi : hasRef s i = true
    · have hreference : (fixupAt p.1 p.2 s).outValueAt j (s.srefAt i).toNat = s.outValueAt j (s.srefAt i).toNat := by
        rw [fixupAt_outValueAt, if_neg]
        rintro ⟨hat, hhasref⟩
        rw [Prod.mk.injEq] at hat
        rw [hat.2, hrefs i hi] at hhasref
        cases hhasref
      by_cases hat : p = (j, i)
      · subst hat
        rw [if_neg fun e => hp e.1, fixupAt_outValueAt, if_pos ⟨rfl, hi⟩, if_pos ⟨List.mem_cons_self, hi⟩]
      · have hown : (fixupAt p.1 p.2 s).outValueAt j i = s.outValueAt j i := by
          rw [fixupAt_outValueAt, if_neg fun e => hat e.1]
        simp only [hreference, hown, List.mem_cons, Ne.symm hat, false_or]
    · rw [if_neg fun e => hi e.2, if_neg fun e => hi e.2, fixupAt_outValueAt, if_neg]
      rintro ⟨hat, hhasref⟩
      rw [Prod.mk.injEq] at hat
      exact hi (hat.2 ▸ hhasref)

/-- What the fixup pass leaves in `OUT` (R214, R215). -/
theorem fixup_outValueAt {s : State} (hrefs : ∀ i, hasRef s i = true → hasRef s (s.srefAt i).toNat = false)
    {n j i : Nat} (hj : j < n) (hi : i < s.straps.C) :
    (fixup n s).outValueAt j i =
      if hasRef s i = true then add32 (s.outValueAt j i) (s.outValueAt j (s.srefAt i).toNat) else s.outValueAt j i := by
  rw [fixup, foldl_fixupAt_outValueAt (places_nodup _ _) hrefs]
  simp only [(mem_places _ _ _ _).2 ⟨hj, hi⟩, true_and]

theorem rebuild_frame (r : Nat → Nat → Word) (ps : List (Nat × Nat)) (s : State) :
    ∃ d o, rebuild r ps s = { s with dsum := d, outValues := o } := by
  induction ps generalizing s with
  | nil => exact ⟨_, _, rfl⟩
  | cons p ps ih =>
    obtain ⟨d, o, hp⟩ := reconstruct_frame p.1 p.2 (r p.1 p.2) s
    obtain ⟨d', o', hps⟩ := ih (reconstruct p.1 p.2 (r p.1 p.2) s)
    exact ⟨d', o', by rw [rebuild, hps, hp]⟩

@[simp] theorem rebuild_straps (r : Nat → Nat → Word) (ps : List (Nat × Nat)) (s : State) :
    (rebuild r ps s).straps = s.straps := by
  obtain ⟨d, o, h⟩ := rebuild_frame r ps s
  rw [h]

@[simp] theorem rebuild_srefAt (r : Nat → Nat → Word) (ps : List (Nat × Nat)) (s : State) :
    (rebuild r ps s).srefAt = s.srefAt := by
  obtain ⟨d, o, h⟩ := rebuild_frame r ps s
  rw [h]; rfl

@[simp] theorem rebuild_hasRef (r : Nat → Nat → Word) (ps : List (Nat × Nat)) (s : State) :
    hasRef (rebuild r ps s) = hasRef s := by
  funext i
  rw [hasRef, rebuild_srefAt, hasRef]

section

variable {s : State} {xs : List Sample} {order : List (Nat × Nat)} (hdsum : ∀ k i, s.dsumAt k i = 0)
  (horder : LegalOrder xs.length s.straps.C order) {j i : Nat} (hj : j < xs.length) (hi : i < s.straps.C)

include hdsum horder hj hi

/-- Before the fixup `OUT` holds the values that the encoder's predictor saw, spatially reduced by its table `ref`. -/
theorem rebuild_outValueAt (ref : Nat → Word) :
    (rebuild (residualAt s.ctrlXor ref xs) order s).outValueAt j i = reduced ref xs i j :=
  (reconstructed_of_legalOrder ref hdsum horder hi).values j hj

/-- After the fixup, with a legal table in the decoder and any table `ref` in the encoder. -/
theorem fixup_rebuild_outValueAt (hlegal : SpatialLegal s) (ref : Nat → Word) :
    (fixup xs.length (rebuild (residualAt s.ctrlXor ref xs) order s)).outValueAt j i =
      if hasRef s i = true then reduced ref xs i j + reduced ref xs (s.srefAt i).toNat j else reduced ref xs i j := by
  rw [fixup_outValueAt (by simpa using fun i hi => (hlegal.reference hi).2) hj (by simpa using hi),
    rebuild_hasRef, rebuild_srefAt, rebuild_outValueAt hdsum horder hj hi]
  by_cases hhas : hasRef s i = true
  · rw [if_pos hhas, if_pos hhas, rebuild_outValueAt hdsum horder hj (hlegal.reference hhas).1]
    rfl
  · rw [if_neg hhas, if_neg hhas]

end

/-- The value of channel `k` in sample `j`. -/
def sampleValue (xs : List Sample) (j k : Nat) : Word := elem (xs.getD j ([], [])).1 k

theorem reduced_of_ref {ref : Nat → Word} {i : Nat} (h : 0 ≤ (ref i).toInt) (xs : List Sample) (j : Nat) :
    reduced ref xs i j = sampleValue xs j i - sampleValue xs j (ref i).toNat := if_pos h

theorem reduced_of_no_ref {ref : Nat → Word} {i : Nat} (h : ¬ 0 ≤ (ref i).toInt) (xs : List Sample) (j : Nat) :
    reduced ref xs i j = sampleValue xs j i := if_neg h

/-- The first clause of O39: what `OUT` holds before the fixup, after it, and after it with the table on one side
only. -/
theorem predictor_outValues {d : State} {xs : List Sample} {order : List (Nat × Nat)} (hlegal : SpatialLegal d)
    (hdsum : ∀ k i, d.dsumAt k i = 0) (horder : LegalOrder xs.length d.straps.C order) {j i : Nat}
    (hj : j < xs.length) (hi : i < d.straps.C) :
    let decoded (ref : Nat → Word) (s : State) := rebuild (residualAt d.ctrlXor ref xs) order s
    let x := sampleValue xs j
    let r := d.srefAt i
    (decoded d.srefAt d).outValueAt j i = (if 0 ≤ r.toInt then x i - x r.toNat else x i) ∧
    (fixup xs.length (decoded d.srefAt d)).outValueAt j i = x i ∧
    (fixup xs.length (decoded d.srefAt { d with sref := [] })).outValueAt j i =
      (if 0 ≤ r.toInt then x i - x r.toNat else x i) ∧
    (fixup xs.length (decoded (fun _ => noRef) d)).outValueAt j i =
      (if 0 ≤ r.toInt then x i + x r.toNat else x i) := by
  have hbare : SpatialLegal { d with sref := [] } := fun _ => .inl rfl
  have hnone (k : Nat) : reduced (fun _ => noRef) xs k j = sampleValue xs j k := reduced_of_no_ref (by decide) xs j
  refine ⟨rebuild_outValueAt hdsum horder hj hi d.srefAt, ?_,
    (fixup_rebuild_outValueAt (s := { d with sref := [] }) hdsum horder hj hi hbare d.srefAt).trans ?_, ?_⟩
  · rw [fixup_rebuild_outValueAt hdsum horder hj hi hlegal]
    by_cases hhas : hasRef d i = true
    · have hreference := mt (hasRef_iff d (d.srefAt i).toNat).2 (Bool.not_eq_true _ ▸ (hlegal.reference hhas).2)
      rw [if_pos hhas, reduced_of_ref ((hasRef_iff d i).1 hhas), reduced_of_no_ref hreference, BitVec.sub_add_cancel]
    · rw [if_neg hhas, reduced_of_no_ref (mt (hasRef_iff d i).2 hhas)]
  · rw [if_neg (by rw [hasRef_of_noRef rfl]; decide)]
    rfl
  · rw [fixup_rebuild_outValueAt hdsum horder hj hi hlegal, hnone, hnone]
    simp only [hasRef_iff]

end Sys2Proof.Machine
end

section
/-! PROOFS of the family 43_predictor.md. The parser on a payload that the formatter wrote (46_message_decode.md R292
to R297): it takes every field back, so `DPAY` raises no fault, whatever mode and table the encoder had (R217). -/

namespace Sys2Proof.Machine

theorem rebuild_append (r : Nat → Nat → Word) (ps qs : List (Nat × Nat)) (s : State) :
    rebuild r (ps ++ qs) s = rebuild r qs (rebuild r ps s) := by
  induction ps generalizing s with
  | nil => rfl
  | cons p ps ih => exact ih _

/-! ## The values section (R292, R293) -/

/-- The places `(0, i) .. (n-1, i)` of one channel. -/
def channelPlaces (n i : Nat) : List (Nat × Nat) := (List.range n).map fun j => (j, i)

/-- A residual as a slot of the packer (45_message_encode.md R263). -/
def residualSlot (r : Word) : U64 := (zzEnc r).setWidth 64

theorem residualSlot_toNat (r : Word) : (residualSlot r).toNat = (zzEnc r).toNat := by
  have := (zzEnc r).isLt
  rw [residualSlot, BitVec.toNat_setWidth, Nat.mod_eq_of_lt (by omega)]

theorem residualSlot_lt (r : Word) : (residualSlot r).toNat < 2 ^ 32 := residualSlot_toNat r ▸ (zzEnc r).isLt

theorem setWidth_residualSlot (r : Word) : (residualSlot r).setWidth 32 = zzEnc r := by
  apply BitVec.eq_of_toNat_eq
  rw [BitVec.toNat_setWidth, residualSlot_toNat, Nat.mod_eq_of_lt (zzEnc r).isLt]

/-- Slots that hold residuals are taken, none is out of range, and the channel is reconstructed from them. -/
theorem rebuildChannel_residualSlots (r : Nat → Nat → Word) (i : Nat) (js : List Nat) {j m : Nat}
    (hjs : js = List.range' j m) (s : State) :
    rebuildChannel i j (js.map fun j => residualSlot (r j i)) s = .ok (rebuild r (js.map fun j => (j, i)) s) := by
  induction js generalizing j m s with
  | nil => rfl
  | cons j' js ih =>
    match m with
    | 0 => cases hjs
    | m + 1 =>
      rw [List.range'_succ, List.cons.injEq] at hjs
      obtain ⟨rfl, hjs⟩ := hjs
      rw [List.map_cons, rebuildChannel, if_neg (Nat.not_le.2 (residualSlot_lt _)), setWidth_residualSlot, zzDec_zzEnc]
      exact ih hjs _

/-- The Simple8b words of one channel's residuals as bytes (R263). -/
def channelWords (tab : List (Nat × Nat)) (n : Nat) (r : Nat → Nat → Word) (i : Nat) : List U64 :=
  s8PackWords tab ((List.range n).map fun j => residualSlot (r j i))

theorem s8UnpackUntil_channelWords {tab : List (Nat × Nat)} (h : s8tabLegal tab = true) (n : Nat)
    (r : Nat → Nat → Word) (i : Nat) (P S : List Byte) :
    s8UnpackUntil tab (P ++ ((channelWords tab n r i).flatMap toBe64 ++ S)) P.length n =
      .ok ((List.range n).map (fun j => residualSlot (r j i)), (channelWords tab n r i).length) := by
  have hfits : ∀ v ∈ (List.range n).map (fun j => residualSlot (r j i)), v.toNat < 2 ^ 60 := by
    intro v hv
    obtain ⟨j, -, rfl⟩ := List.mem_map.1 hv
    exact Nat.lt_trans (residualSlot_lt _) (by decide)
  have hback := (packing_s8PackWords h _ hfits).s8UntilFrom_eq h S P.length
  rw [List.length_map, List.length_range] at hback
  rw [s8UnpackUntil, List.drop_left]
  exact hback

/-- The Simple8b words of one channel as payload bytes (R263). -/
def channelBytes (tab : List (Nat × Nat)) (n : Nat) (r : Nat → Nat → Word) (i : Nat) : List Byte :=
  (channelWords tab n r i).flatMap toBe64

theorem channelBytes_length (tab : List (Nat × Nat)) (n : Nat) (r : Nat → Nat → Word) (i : Nat) :
    (channelBytes tab n r i).length = 8 * (channelWords tab n r i).length := flatMap_toBe64_length _

/-- The parser takes back a values section in Simple8b mode, channel after channel (R292). -/
theorem parseS8_channelBytes (n : Nat) (r : Nat → Nat → Word) (is : List Nat) (P S : List Byte) {s : State}
    (h : s8tabLegal s.straps.s8tab = true) :
    parseS8 (P ++ (is.flatMap (channelBytes s.straps.s8tab n r) ++ S)) n is s P.length =
      .ok (rebuild r (is.flatMap (channelPlaces n)) s,
        P.length + (is.flatMap (channelBytes s.straps.s8tab n r)).length) := by
  induction is generalizing P s with
  | nil => rfl
  | cons i is ih =>
    have hchannel := s8UnpackUntil_channelWords h n r i P (is.flatMap (channelBytes s.straps.s8tab n r) ++ S)
    have hrest := ih (P ++ channelBytes s.straps.s8tab n r i) (s := rebuild r (channelPlaces n i) s)
      (by rw [rebuild_straps]; exact h)
    rw [rebuild_straps, List.append_assoc, List.length_append, channelBytes_length] at hrest
    rw [← channelBytes] at hchannel
    rw [List.flatMap_cons, List.append_assoc, parseS8, hchannel]
    simp only [rebuildChannel_residualSlots r i _ (List.range_eq_range' (n := n))]
    rw [List.flatMap_cons, rebuild_append, List.length_append, ← Nat.add_assoc, channelBytes_length]
    exact hrest

/-- The varint of one place's residual (R264). -/
def placeBytes (r : Nat → Nat → Word) (p : Nat × Nat) : List Byte := svPut (r p.1 p.2)

/-- The parser takes back a values section in varint mode, place after place (R293). -/
theorem parseVarint_placeBytes (r : Nat → Nat → Word) (ps : List (Nat × Nat)) (P S : List Byte) (s : State) :
    parseVarint (P ++ (ps.flatMap (placeBytes r) ++ S)) ps s P.length =
      .ok (rebuild r ps s, P.length + (ps.flatMap (placeBytes r)).length) := by
  induction ps generalizing P s with
  | nil => rfl
  | cons p ps ih =>
    have hfield := (varintRoundTrip (r p.1 p.2) P (ps.flatMap (placeBytes r) ++ S)).2
    have hrest := ih (P ++ placeBytes r p) (reconstruct p.1 p.2 (r p.1 p.2) s)
    rw [← placeBytes, List.append_assoc] at hfield
    rw [List.length_append, List.append_assoc, Nat.add_assoc] at hrest
    rw [List.flatMap_cons, List.append_assoc, parseVarint, hfield, List.length_append]
    exact hrest

/-- The order in which the parser visits the places (R292, R293). -/
def parseOrder (p : Straps) (n : Nat) : List (Nat × Nat) :=
  if 16 < p.N then (List.range p.C).flatMap (channelPlaces n) else places n p.C

/-- The parser takes back every values section that the formatter writes, and reconstructs from its residuals. -/
theorem parseValues_valuesBytes (n : Nat) (r : Nat → Nat → Word) (S : List Byte) {s : State}
    (h : s8tabLegal s.straps.s8tab = true) :
    parseValues (valuesBytes s.straps n (fun i j => r j i) ++ S) n s =
      .ok (rebuild r (parseOrder s.straps n) s, (valuesBytes s.straps n fun i j => r j i).length) := by
  by_cases hmode : 16 < s.straps.N
  · have hparse := parseS8_channelBytes n r (List.range s.straps.C) [] S h
    have hbytes : valuesBytes s.straps n (fun i j => r j i) =
        (List.range s.straps.C).flatMap (channelBytes s.straps.s8tab n r) := if_pos hmode
    rw [List.nil_append, List.length_nil, Nat.zero_add] at hparse
    rw [parseValues, if_pos (by simpa [s8mode] using hmode), parseOrder, if_pos hmode, hbytes, hparse]
  · have hparse := parseVarint_placeBytes r (places n s.straps.C) [] S s
    have hbytes : valuesBytes s.straps n (fun i j => r j i) = (places n s.straps.C).flatMap (placeBytes r) := by
      rw [valuesBytes, if_neg hmode]
      simp only [places, List.flatMap_assoc, List.flatMap_map]
      rfl
    rw [List.nil_append, List.length_nil, Nat.zero_add] at hparse
    rw [parseValues, if_neg (by simpa [s8mode] using hmode), parseOrder, if_neg hmode, hbytes, hparse]

/-! ## The quality section (R240, R295) -/

theorem one_le_of_mem_runsOf {qs : List Word} {x : Word × Nat} (h : x ∈ runsOf qs) : 1 ≤ x.2 := by
  induction qs generalizing x with
  | nil => cases h
  | cons q qs ih =>
    rw [runsOf] at h
    split at h
    next => exact List.mem_singleton.1 h ▸ Nat.le_refl 1
    next v n rest hruns =>
      rw [hruns] at ih
      split at h
      next =>
        rcases List.mem_cons.1 h with rfl | h
        · exact Nat.succ_pos n
        · exact ih (List.mem_cons_of_mem _ h)
      next =>
        rcases List.mem_cons.1 h with rfl | h
        · exact Nat.le_refl 1
        · exact ih h

theorem sum_runsOf (qs : List Word) : ((runsOf qs).map Prod.snd).sum = qs.length := by
  induction qs with
  | nil => rfl
  | cons q qs ih =>
    rw [runsOf, List.length_cons, ← ih]
    split
    next h => simp [h]
    next v n rest h =>
      rw [h]
      split <;> simp <;> omega

theorem runsOf_ne_nil {qs : List Word} (h : qs ≠ []) : runsOf qs ≠ [] := by
  intro he
  have hsum := sum_runsOf qs
  rw [he] at hsum
  exact h (List.length_eq_zero_iff.1 hsum.symm)

theorem length_le_sum_runs {runs : List (Word × Nat)} (hpos : ∀ x ∈ runs, 1 ≤ x.2) :
    runs.length ≤ (runs.map Prod.snd).sum := by
  have h := List.length_le_sum_of_one_le (runs.map Prod.snd) (by simpa using fun l v h => hpos (v, l) h)
  rwa [List.length_map] at h

theorem readPair_uvPut (a b : Word) (P S : List Byte) :
    readPair (P ++ (uvPut a ++ uvPut b ++ S)) P.length = .ok (a, b, P.length + (uvPut a ++ uvPut b).length) := by
  have hfirst := uvGet_append_uvPut a P (uvPut b ++ S)
  have hsecond := uvGet_append_uvPut b (P ++ uvPut a) S
  simp only [List.append_assoc, List.length_append] at hfirst hsecond ⊢
  simp only [readPair, hfirst, hsecond, Nat.add_assoc]

theorem expandRuns_of_le {n cur : Nat} (h : n ≤ cur) (B : List Byte) (i fuel : Nat) (s : State) (pos : Nat) :
    expandRuns B i n fuel cur s pos = .ok (s, pos) := by
  cases fuel with
  | zero => rfl
  | succ fuel => rw [expandRuns, if_pos h]

@[simp] theorem fillQuality_straps (i : Nat) (q : Word) (js : List Nat) (s : State) :
    (fillQuality i q js s).straps = s.straps := by
  obtain ⟨o, h⟩ := fillQuality_frame i q js s
  rw [h]

/-- One turn of the expander on a pair whose length is in range (R240, R242). -/
theorem expandRuns_turn {B : List Byte} {i n cur pos pos' : Nat} {s : State} {v l : Word} (hcur : cur < n)
    (hread : readPair B pos = .ok (v, l, pos')) (hl : l.toNat ≤ s.straps.N) (fuel : Nat) :
    expandRuns B i n (fuel + 1) cur s pos = expandRuns B i n fuel (if l = 0 then n else cur + l.toNat)
      (fillQuality i v (fillIndices s.straps cur l.toNat) (s.setOutQuality cur i v)) pos' := by
  rw [expandRuns, if_neg (Nat.not_le.2 hcur), hread]
  simp only [if_neg (Nat.not_lt.2 hl)]

/-- The expander takes back the wire runs of a channel whose run lengths fill the message from the cursor on. -/
theorem expandRuns_wireRuns (i n : Nat) (S : List Byte) {runs : List (Word × Nat)} (hne : runs ≠ [])
    (hpos : ∀ x ∈ runs, 1 ≤ x.2) {fuel cur : Nat} (P : List Byte) {s : State} (hfuel : runs.length ≤ fuel)
    (hsum : cur + (runs.map Prod.snd).sum = n) (hn : n ≤ s.straps.N) (hN : s.straps.N < 2 ^ 32) :
    ∃ t, expandRuns (P ++ (wireBytes (wireRuns runs) ++ S)) i n fuel cur s P.length =
      .ok (t, P.length + (wireBytes (wireRuns runs)).length) := by
  induction runs generalizing fuel cur P s with
  | nil => exact absurd rfl hne
  | cons x runs ih =>
    obtain ⟨v, l⟩ := x
    have hl := hpos (v, l) List.mem_cons_self
    obtain ⟨fuel, rfl⟩ : ∃ f, fuel = f + 1 := ⟨fuel - 1, by simp at hfuel; omega⟩
    rw [List.map_cons, List.sum_cons] at hsum
    have hcur : cur < n := by simp only at hl hsum; omega
    match runs with
    | [] =>
      have hread := readPair_uvPut v 0 P S
      refine ⟨fillQuality i v (fillIndices s.straps cur (0 : Word).toNat) (s.setOutQuality cur i v), ?_⟩
      rw [wireRuns, wireBytes, List.flatMap_singleton, expandRuns_turn hcur hread (by simp), if_pos rfl,
        expandRuns_of_le (Nat.le_refl n)]
    | y :: rest =>
      have hlength : (BitVec.ofNat 32 l).toNat = l := by
        rw [BitVec.toNat_ofNat, Nat.mod_eq_of_lt]
        simp only at hsum
        omega
      have hread := readPair_uvPut v (BitVec.ofNat 32 l) P (wireBytes (wireRuns (y :: rest)) ++ S)
      have hturn := expandRuns_turn (i := i) (s := s) hcur hread (by simp only at hsum; omega) fuel
      have hlength0 : BitVec.ofNat 32 l ≠ 0 := by
        intro h0
        rw [h0] at hlength
        simp only [BitVec.toNat_zero, BitVec.ofNat_eq_ofNat] at hlength hl
        omega
      obtain ⟨t, hrest⟩ := ih (by simp) (fun x hx => hpos x (List.mem_cons_of_mem _ hx)) (fuel := fuel)
        (cur := cur + l) (P ++ (uvPut v ++ uvPut (BitVec.ofNat 32 l)))
        (s := fillQuality i v (fillIndices s.straps cur l) (s.setOutQuality cur i v))
        (by simp at hfuel ⊢; omega) (by simp only at hsum; omega) (by simpa using hn) (by simpa using hN)
      have hbytes : wireBytes (wireRuns ((v, l) :: y :: rest)) =
          uvPut v ++ uvPut (BitVec.ofNat 32 l) ++ wireBytes (wireRuns (y :: rest)) := by
        rw [wireRuns, wireBytes, List.flatMap_cons]
        rfl
      refine ⟨t, ?_⟩
      rw [if_neg hlength0, hlength] at hturn
      rw [hbytes, List.append_assoc, hturn]
      rw [List.append_assoc, List.length_append] at hrest
      rw [hrest, List.length_append (bs := wireBytes _), Nat.add_assoc]

/-- The expander takes back the quality section of channels with `n` quality words each (R295). -/
theorem expandAll_wireBytes (qs : Nat → List Word) {n : Nat} (hlen : ∀ i, (qs i).length = n) (hpos : 0 < n)
    (is : List Nat) (P : List Byte) {s : State} (hn : n ≤ s.straps.N) (hN : s.straps.N < 2 ^ 32) :
    ∃ t, expandAll (P ++ is.flatMap fun i => wireBytes (wireRuns (runsOf (qs i)))) n is s P.length =
      .ok (t, P.length + (is.flatMap fun i => wireBytes (wireRuns (runsOf (qs i)))).length) := by
  induction is generalizing P s with
  | nil => exact ⟨s, rfl⟩
  | cons i is ih =>
    have hsum := sum_runsOf (qs i)
    have hshort := length_le_sum_runs (fun x (hx : x ∈ runsOf (qs i)) => one_le_of_mem_runsOf hx)
    rw [hlen] at hsum
    have hne : qs i ≠ [] := by
      rw [← List.length_pos_iff, hlen]
      exact hpos
    obtain ⟨u, hchannel⟩ := expandRuns_wireRuns i n (is.flatMap fun i => wireBytes (wireRuns (runsOf (qs i))))
      (runsOf_ne_nil hne) (fun x hx => one_le_of_mem_runsOf hx) P (s := s) (hsum ▸ hshort)
      (by rw [hsum, Nat.zero_add]) hn hN
    obtain ⟨q, hframe⟩ := expandRuns_frame _ _ _ _ _ _ _ _ _ hchannel
    have hstraps : u.straps = s.straps := by rw [hframe]
    obtain ⟨t, hrest⟩ := ih (P ++ wireBytes (wireRuns (runsOf (qs i)))) (s := u) (by rw [hstraps]; exact hn)
      (by rw [hstraps]; exact hN)
    refine ⟨t, ?_⟩
    rw [List.append_assoc, List.length_append] at hrest
    rw [List.flatMap_cons, expandAll, hchannel, List.length_append, ← Nat.add_assoc]
    exact hrest

/-! ## The payload (R291, R296) -/

/-- The parser takes back the payload of any message the block has room for, to its last byte. -/
theorem parsePayload_messagePayload {s : State} (h : strapsLegal s.straps = true) {xs : List Sample} (hne : xs ≠ [])
    (hroom : xs.length ≤ s.straps.N) (xor : Bool) (ref : Nat → Word) :
    ∃ t, parsePayload (messagePayload s.straps xor ref xs) xs.length s =
      .ok (t, (messagePayload s.straps xor ref xs).length) := by
  have htable : s8tabLegal s.straps.s8tab = true := (Bool.and_eq_true _ _ ▸ h).2
  have hvalues := parseValues_valuesBytes xs.length (residualAt xor ref xs) (messageQuality s.straps xs) htable
  rw [parsePayload, messagePayload, show messageValues s.straps xor ref xs = valuesBytes s.straps xs.length
    (fun i j => residualAt xor ref xs j i) from rfl, hvalues]
  obtain ⟨o, hframe⟩ := fixup_frame xs.length (rebuild (residualAt xor ref xs) (parseOrder s.straps xs.length) s)
  have hstraps : (fixup xs.length (rebuild (residualAt xor ref xs) (parseOrder s.straps xs.length) s)).straps =
      s.straps := by rw [hframe]; exact rebuild_straps _ _ _
  rw [List.length_append]
  exact expandAll_wireBytes (qualityWords xs) (fun i => List.length_map _) (List.length_pos_iff.2 hne)
    (List.range s.straps.C) _ (by rw [hstraps]; exact hroom)
    (by rw [hstraps]; exact Nat.lt_trans (N_lt_of_strapsLegal h) (by decide))

/-- `DPAY` of the payload of a message the block has room for: `OK`, with the payload's length and the sample count. -/
theorem exec_dpay_messagePayload {s : State} (h : strapsLegal s.straps = true) {xs : List Sample} (hne : xs ≠ [])
    (hroom : xs.length ≤ s.straps.N) (xor : Bool) (ref : Nat → Word) :
    let payload := messagePayload s.straps xor ref xs
    ∃ t, exec (.dpay (BitVec.ofNat 32 xs.length) payload) s = .next t ∧ t.faults = s.faults ∧
      t.outn = xs.length ∧ t.responses = s.responses ++
        [[0#32, 2#32, BitVec.ofNat 32 payload.length, BitVec.ofNat 32 xs.length]] := by
  have hN := N_lt_of_strapsLegal h
  have hpos : 0 < xs.length := List.length_pos_iff.2 hne
  have hes : (BitVec.ofNat 32 xs.length).toNat = xs.length := by
    rw [BitVec.toNat_ofNat, Nat.mod_eq_of_lt (by omega)]
  have hcount : ¬ (BitVec.ofNat 32 xs.length).toInt ≤ 0 := by
    rw [BitVec.toInt_eq_toNat_of_lt (by omega), hes]
    omega
  obtain ⟨u, hparse⟩ := parsePayload_messagePayload (s := (s.setOutn 0).clearDsum) h hne hroom xor ref
  obtain ⟨d, o, q, hframe⟩ := parsePayload_frame _ _ _ _ _ hparse
  have hexec : exec (.dpay (BitVec.ofNat 32 xs.length) (messagePayload s.straps xor ref xs)) s =
      .next (respond [natWord (messagePayload s.straps xor ref xs).length, natWord xs.length]
        ((u.clearDsum).setOutn xs.length)) := by
    rw [exec, execDpay, if_neg hcount]
    simp only [decodeLength, hes, Nat.min_eq_left hroom]
    rw [show messagePayload s.straps xor ref xs = messagePayload ((s.setOutn 0).clearDsum).straps xor ref xs from rfl,
      hparse]
  refine ⟨_, hexec, ?_, rfl, ?_⟩ <;> rw [hframe] <;> rfl

/-- Settles O39. `OUT` by the invariant of reconstruction per channel (`Reconstructed`) and the fixup pass; no fault,
since the parser takes back what the formatter wrote. -/
theorem predictorRoundTrip : Obligations.PredictorRoundTrip := by
  intro d xs order hlegal _ hdsum horder
  exact ⟨fun j i hj hi => predictor_outValues hlegal hdsum horder hj hi,
    fun hstraps hne hroom xor ref => exec_dpay_messagePayload hstraps hne hroom xor ref⟩

end Sys2Proof.Machine
end

section
/-! PROOFS of the family 43_predictor.md. The encoder's side: what `ESAMP` answers, and the invariant that `PREV` holds
the successive differences of the message under way (R205); the residuals of R204 follow from it, and so does the
agreement of `PREV` and `DSUM` (R216). -/

namespace Sys2Proof.Machine

/-! ## One `ESAMP` (45_message_encode.md R261) -/

theorem spatial_eq_spatialOf (v : List Word) (s : State) (i : Nat) : spatial v s i = spatialOf s.srefAt v i := by
  rw [spatial, spatialOf, sub32]
  simp only [hasRef_iff]

@[simp] theorem takeSample_straps (v q : List Word) (s : State) : (takeSample v q s).1.straps = s.straps := by
  obtain ⟨p, r, u, c, h⟩ := takeSample_frame v q s
  rw [h]

@[simp] theorem takeSample_ctrlXor (v q : List Word) (s : State) : (takeSample v q s).1.ctrlXor = s.ctrlXor := by
  obtain ⟨p, r, u, c, h⟩ := takeSample_frame v q s
  rw [h]

@[simp] theorem takeSample_sref (v q : List Word) (s : State) : (takeSample v q s).1.sref = s.sref := by
  obtain ⟨p, r, u, c, h⟩ := takeSample_frame v q s
  rw [h]

@[simp] theorem takeSample_responses (v q : List Word) (s : State) :
    (takeSample v q s).1.responses = s.responses := by
  obtain ⟨p, r, u, c, h⟩ := takeSample_frame v q s
  rw [h]

@[simp] theorem finalise_responses (s : State) : (finalise s).1.responses = s.responses := by
  obtain ⟨u, h⟩ := finalise_frame s
  rw [h]

/-- `ESAMP` of a sample that does not fill the message. -/
theorem exec_esamp_of_ne {s : State} (h : s.j + 1 ≠ s.straps.N) (v q : List Word) :
    exec (.esamp v q) s = .next (respond ((takeSample v q s).2 ++ [0#32]) (takeSample v q s).1) := by
  simp only [exec, execEsamp]
  rw [if_neg (by simpa using h)]

/-- `ESAMP` of the sample that fills the message. -/
theorem exec_esamp_of_eq {s : State} (h : s.j + 1 = s.straps.N) (v q : List Word) :
    exec (.esamp v q) s = .next (respond ((takeSample v q s).2 ++
      1#32 :: messageWords (finalise (takeSample v q s).1).2.1 (finalise (takeSample v q s).1).2.2)
        (finalise (takeSample v q s).1).1) := by
  simp only [exec, execEsamp]
  rw [if_pos (by simpa using h)]

/-- Either way the response begins with the residuals of the sample. -/
theorem exec_esamp_responses (v q : List Word) (s : State) :
    ∃ t more, exec (.esamp v q) s = .next t ∧
      t.responses = s.responses ++ [responsePacket 0x00#8 ((takeSample v q s).2 ++ more)] := by
  by_cases h : s.j + 1 = s.straps.N
  · exact ⟨_, _, exec_esamp_of_eq h v q, by rw [respond_responses, finalise_responses, takeSample_responses]⟩
  · exact ⟨_, _, exec_esamp_of_ne h v q, by rw [respond_responses, takeSample_responses]⟩

/-! ## A message under way (43_predictor.md R203 to R205) -/

/-- `t` is where a message stands that began in `s`, after its samples `0 .. n-1`; the sequence of channel `i` is
`x i`. `PREV` holds the differences that end at the last sample, up to order `min (n - 1) 2`. -/
structure Predicted (s : State) (x : Nat → Nat → Word) (n : Nat) (t : State) : Prop where
  count : t.j = n
  straps : t.straps = s.straps
  mode : t.ctrlXor = s.ctrlXor
  refs : t.sref = s.sref
  layers : ∀ i, i < s.straps.C → ∀ k, t.prevAt k i =
    if k < min n 3 then difference s.ctrlXor (x i) k (n - 1) else s.prevAt k i

theorem Predicted.start {s : State} (h : s.j = 0) (x : Nat → Nat → Word) : Predicted s x 0 s :=
  ⟨h, rfl, rfl, rfl, fun i _ k => by rw [if_neg (by omega)]⟩

section

variable {s t : State} {x : Nat → Nat → Word} {n : Nat} (h : Predicted s x n t)

include h

theorem Predicted.respond (ws : List Word) : Predicted s x n (respond ws t) :=
  ⟨h.count, h.straps, h.mode, h.refs, h.layers⟩

theorem Predicted.spatial_eq (v : List Word) (i : Nat) : spatial v t i = spatialOf s.srefAt v i := by
  rw [spatial_congr h.refs, spatial_eq_spatialOf]

/-- The differences that R203 takes for the next sample, from the layers of `PREV` that this message has written. -/
theorem Predicted.delta_eq {i k : Nat} (hi : i < s.straps.C) (hk : k < min n 3) :
    delta t i (x i n) k = difference s.ctrlXor (x i) (k + 1) n := by
  induction k with
  | zero => rw [delta, h.mode, h.layers i hi, if_pos hk]; rfl
  | succ k ih => rw [delta, h.mode, h.layers i hi, if_pos hk, ih (by omega)]; rfl

/-- The residual of the next sample (R202, R203) is the closed form of R204. -/
theorem Predicted.residual_eq {i : Nat} (hi : i < s.straps.C) :
    residual t n i (x i n) = closedResidual s.ctrlXor (x i) n := by
  rw [closedResidual_eq_difference]
  match n with
  | 0 => rfl
  | n + 1 =>
    have horder : min (n + 1 - 1) (Config.D - 1) + 1 = min (n + 1) 3 := by simp only [Config.D]; omega
    rw [residual, if_neg (Nat.succ_ne_zero n), h.delta_eq hi (by omega), horder]

/-- One more sample (R202, R203). -/
theorem Predicted.next {v q : List Word} (hv : ∀ i, spatialOf s.srefAt v i = x i n) :
    Predicted s x (n + 1) (takeSample v q t).1 where
  count := by rw [takeSample_j, h.count]
  straps := by rw [takeSample_straps, h.straps]
  mode := by rw [takeSample_ctrlXor, h.mode]
  refs := by rw [takeSample_sref, h.refs]
  layers i hi k := by
    rw [takeSample_prevAt, h.straps, h.count, h.spatial_eq, hv]
    match k with
    | 0 => rw [if_pos ⟨hi, rfl⟩, if_pos (by omega)]; rfl
    | k + 1 =>
      have hwritten : k + 1 ≤ min n (Config.D - 1) ↔ k + 1 < min (n + 1) 3 := by simp only [Config.D]; omega
      rw [if_neg (fun e => Nat.succ_ne_zero k e.2)]
      simp only [hi, true_and, hwritten]
      by_cases hk : k + 1 < min (n + 1) 3
      · rw [if_pos hk, if_pos hk]
        exact h.delta_eq hi (by omega)
      · rw [if_neg hk, if_neg hk, h.layers i hi, if_neg (by omega)]

/-- `ESAMP` of samples that leave the message unfinished. -/
theorem Predicted.execAll_esamp {xs : List Sample}
    (hx : ∀ m, m < xs.length → ∀ i, spatialOf s.srefAt (xs.getD m ([], [])).1 i = x i (n + m))
    (hroom : n + xs.length < s.straps.N) :
    ∃ u, execAll (xs.map Sample.esamp) t = .next u ∧ Predicted s x (n + xs.length) u := by
  induction xs generalizing n t with
  | nil => exact ⟨t, rfl, h⟩
  | cons y ys ih =>
    rw [List.length_cons] at hroom
    have hnext := (h.next (q := y.2) (hx 0 (by simp))).respond ((takeSample y.1 y.2 t).2 ++ [0#32])
    obtain ⟨u, hexec, hu⟩ := ih hnext
      (fun m hm i => by rw [Nat.add_assoc, Nat.add_comm 1]; exact hx (m + 1) (Nat.succ_lt_succ hm) i) (by omega)
    refine ⟨u, ?_, ?_⟩
    · have hfirst : exec y.esamp t = _ := exec_esamp_of_ne (by rw [h.count, h.straps]; omega) y.1 y.2
      rw [List.map_cons, execAll_cons hfirst]
      exact hexec
    · rw [List.length_cons, Nat.add_comm ys.length, ← Nat.add_assoc]
      exact hu

end

/-- The samples `xs` of a message that goes on with `ys`. -/
theorem execAll_esamp_predicted {s : State} {xs : List Sample} (hj : s.j = 0) (hroom : xs.length < s.straps.N)
    (ys : List Sample) :
    ∃ t, execAll (xs.map Sample.esamp) s = .next t ∧ Predicted s (reduced s.srefAt (xs ++ ys)) xs.length t := by
  have h := (Predicted.start hj (reduced s.srefAt (xs ++ ys))).execAll_esamp (xs := xs)
    (fun m hm i => by rw [Nat.zero_add, reduced, List.getD_append _ _ _ _ hm]) (by omega)
  rwa [Nat.zero_add] at h

/-! ## The obligations -/

/-- A constant channel, a ramp and a quadratic (R204), by the binomial identities of the closed forms. -/
theorem closedResidual_const (xor : Bool) (c : Word) (j : Nat) : closedResidual xor (fun _ => c) (j + 1) = 0 := by
  match j, xor with
  | 0, false => exact sub_self c
  | 0, true => exact BitVec.xor_self
  | 1, false => show c - 2 * c + c = 0; ring
  | 1, true => exact BitVec.xor_self
  | j + 2, false => show c - 3 * c + 3 * c - c = 0; ring
  | j + 2, true => show c ^^^ c ^^^ c ^^^ c = 0; simp

theorem closedResidual_ramp (a b : Word) (j : Nat) :
    closedResidual false (fun n => a + b * BitVec.ofNat 32 n) 1 = b ∧
    closedResidual false (fun n => a + b * BitVec.ofNat 32 n) (j + 2) = 0 := by
  simp only [← BitVec.natCast_eq_ofNat]
  refine ⟨?_, ?_⟩
  · show a + b * ((1 : Nat) : Word) - (a + b * ((0 : Nat) : Word)) = b
    simp only [Nat.cast_one, Nat.cast_zero]
    ring
  · match j with
    | 0 =>
      show a + b * ((2 : Nat) : Word) - 2 * (a + b * ((1 : Nat) : Word)) + (a + b * ((0 : Nat) : Word)) = 0
      simp only [Nat.cast_ofNat, Nat.cast_one, Nat.cast_zero]
      ring
    | j + 1 =>
      show a + b * ((j + 3 : Nat) : Word) - 3 * (a + b * ((j + 2 : Nat) : Word)) +
        3 * (a + b * ((j + 1 : Nat) : Word)) - (a + b * ((j : Nat) : Word)) = 0
      simp only [Nat.cast_add, Nat.cast_ofNat, Nat.cast_one]
      ring

theorem closedResidual_quadratic (a b c : Word) (j : Nat) : closedResidual false
    (fun n => a + b * BitVec.ofNat 32 n + c * BitVec.ofNat 32 (n * n)) (j + 3) = 0 := by
  simp only [← BitVec.natCast_eq_ofNat, closedResidual, Bool.false_eq_true, if_false]
  simp only [Nat.cast_add, Nat.cast_mul, Nat.cast_ofNat, Nat.cast_one]
  ring

/-- Settles O36: `PREV` holds the differences of the samples before, so the residual is the difference of the next
order. -/
theorem residualClosedForm : Obligations.ResidualClosedForm := by
  refine ⟨fun s xs x hj hroom => ?_, closedResidual_const, closedResidual_ramp, closedResidual_quadratic⟩
  obtain ⟨t, hall, ht⟩ := execAll_esamp_predicted hj hroom [x]
  obtain ⟨u, more, hexec, hresponses⟩ := exec_esamp_responses x.1 x.2 t
  have hlast (i : Nat) : spatialOf s.srefAt x.1 i = reduced s.srefAt (xs ++ [x]) i xs.length := by
    rw [reduced, List.getD_append_right _ _ _ _ (Nat.le_refl _), Nat.sub_self]
    rfl
  have hresiduals : (takeSample x.1 x.2 t).2 = (List.range s.straps.C).map fun i =>
      closedResidual s.ctrlXor (reduced s.srefAt (xs ++ [x]) i) xs.length := by
    rw [takeSample_residuals, ht.straps, ht.count]
    refine List.map_congr_left fun i hi => ?_
    rw [ht.spatial_eq, hlast, ht.residual_eq (List.mem_range.1 hi)]
  refine ⟨t, u, more, hall, hexec, ?_⟩
  rw [hresponses, hresiduals, responsePacket, List.length_append, List.length_map, List.length_range]
  rfl

/-- Settles O37: the layers of `Predicted`, written out for `D = 3`. -/
theorem prevHoldsDifferences : Obligations.PrevHoldsDifferences := by
  intro s xs hj hne hroom
  obtain ⟨t, hall, ht⟩ := execAll_esamp_predicted hj hroom []
  rw [List.append_nil] at ht
  have hpos : 0 < xs.length := List.length_pos_iff.2 hne
  have hlayer (k : Nat) : 1 ≤ k → k ≤ 2 → (k < min xs.length 3 ↔ k ≤ xs.length - 1) := by omega
  refine ⟨t, hall, fun i hi => ⟨?_, ?_, ?_, fun k hk => ?_⟩⟩
  · rw [ht.layers i hi, if_pos (by omega)]
    rfl
  · simp only [ht.layers i hi, hlayer 1 (by decide) (by decide)]
    rfl
  · simp only [ht.layers i hi, hlayer 2 (by decide) (by decide)]
    rfl
  · rw [ht.layers i hi, if_neg (by omega)]

/-- The order sample by sample is one that R210 allows. -/
theorem legalOrder_places (n c : Nat) : LegalOrder n c (places n c) := by
  refine ⟨fun p hp => ((mem_places n c p.1 p.2).1 hp).2, fun i hi => ?_⟩
  have hrow (j : Nat) : ((List.range c).map fun i' => (j, i')).filter (fun p => p.2 == i) = [(j, i)] := by
    rw [List.filter_map, Function.comp_def]
    simp [List.filter_beq, List.count_range, hi]
  rw [places, List.filter_flatMap]
  simp only [hrow]
  simp [← List.map_eq_flatMap, Function.comp_def]

/-- Settles O38: `PREV` above layer 0 and `DSUM` hold the same differences. -/
theorem dsumMirrorsPrev : Obligations.DsumMirrorsPrev := by
  intro e d xs hj hlen hroom hmode hdsum
  obtain ⟨t, hall, ht⟩ := execAll_esamp_predicted hj hroom []
  rw [List.append_nil] at ht
  refine ⟨t, hall, fun i hi => ?_⟩
  have hd := reconstructed_of_legalOrder e.srefAt hdsum (legalOrder_places xs.length e.straps.C) hi
  rw [hmode] at hd
  refine ⟨fun k hk => ?_, fun k hk => ?_, hd.values _ (by omega)⟩
  · rw [hd.layers, if_pos (by omega), ht.layers i hi, if_pos (by omega)]
  · rw [hd.layers, if_neg (by omega)]

end Sys2Proof.Machine
end

section
/-! PROOFS of the family 43_predictor.md. What the encode commands answer does not depend on what an earlier message
left in `PREV`, `RES` and the run vectors (R206; 10_state.md R36): a message reads an entry only after writing it. -/

namespace Sys2Proof.Machine

/-! ## States that agree on what the message under way has written -/

/-- The live runs of channel `i` are the same in `s` and in `s'`, and there is one. -/
structure SameLiveRuns (s s' : State) (i : Nat) : Prop where
  count : s'.runcntAt i = s.runcntAt i
  live : 1 ≤ s.runcntAt i
  runs : ∀ r, r < s.runcntAt i → s'.runAt i r = s.runAt i r

/-- `s` and `s'` have the same straps, configuration and place in the message, and agree on every entry of `PREV`, `RES`
and the run vectors that the message under way has written; the other entries are arbitrary. -/
structure SameMessage (s s' : State) : Prop where
  straps : s'.straps = s.straps
  config : SameConfig s s'
  count : s'.j = s.j
  layers : ∀ i, i < s.straps.C → ∀ k, k < min s.j 3 → s'.prevAt k i = s.prevAt k i
  residuals : ∀ i, i < s.straps.C → ∀ j, j < s.j → s'.resAt i j = s.resAt i j
  runs : s.j ≠ 0 → ∀ i, i < s.straps.C → SameLiveRuns s s' i

/-- Between messages nothing has been written. -/
theorem SameMessage.of_idle {s s' : State} (hstraps : s'.straps = s.straps) (hconfig : SameConfig s s') (hj : s.j = 0)
    (hj' : s'.j = 0) : SameMessage s s' where
  straps := hstraps
  config := hconfig
  count := hj'.trans hj.symm
  layers _ _ k hk := by omega
  residuals _ _ j h := by omega
  runs h := absurd hj h

theorem SameMessage.respond {s s' : State} (h : SameMessage s s') (ws ws' : List Word) :
    SameMessage (respond ws s) (respond ws' s') :=
  ⟨h.straps, h.config, h.count, h.layers, h.residuals,
    fun hj i hi => have hr := h.runs hj i hi; ⟨hr.count, hr.live, hr.runs⟩⟩

/-! ## Commands that answer alike -/

/-- Both commands end, with the same response, in states that agree again. -/
def EndAlike (s s' : State) (o o' : Host.Outcome State Fault Refusal) : Prop :=
  ∃ t t' r, o = .next t ∧ o' = .next t' ∧ t.responses = s.responses ++ [r] ∧
    t'.responses = s'.responses ++ [r] ∧ SameMessage t t'

theorem EndAlike.of_respond {s s' u u' : State} (h : SameMessage u u') (ws : List Word) (hu : u.responses = s.responses)
    (hu' : u'.responses = s'.responses) : EndAlike s s' (.next (respond ws u)) (.next (respond ws u')) :=
  ⟨_, _, responsePacket 0x00#8 ws, rfl, rfl, by rw [respond_responses, hu], by rw [respond_responses, hu'],
    h.respond ws ws⟩

/-! ## One sample -/

/-- A push reads the last live run only. -/
theorem SameLiveRuns.pushQuality {s s' : State} {j i : Nat} (h : j ≠ 0 → SameLiveRuns s s' i) (q : Word) :
    SameLiveRuns (pushQuality j i q s) (pushQuality j i q s') i := by
  unfold Machine.pushQuality
  by_cases hj : j = 0
  · simp only [hj, if_true]
    exact ⟨by simp, by simp, fun r hr => by simp at hr; simp [hr]⟩
  · obtain ⟨hcount, hlive, hruns⟩ := h hj
    have hlast := hruns (s.runcntAt i - 1) (by omega)
    simp only [hj, if_false, hcount, hlast]
    split
    · refine ⟨by simpa using hcount, by simpa using hlive, fun r hr => ?_⟩
      simp only [setRun_runcntAt] at hr
      simp [hruns r hr]
    · refine ⟨by simp, by simp, fun r hr => ?_⟩
      simp only [setRuncnt_runcntAt, if_true] at hr
      simp only [setRuncnt_runAt, setRun_runAt, true_and]
      split
      · rfl
      · exact hruns r (by omega)

section

variable {s s' : State} (h : SameMessage s s')

include h

theorem SameMessage.spatial_eq (v : List Word) (i : Nat) : spatial v s' i = spatial v s i :=
  spatial_congr h.config.2 v i

theorem SameMessage.delta_eq {i k : Nat} (hi : i < s.straps.C) (hk : k < min s.j 3) (v : Word) :
    delta s' i v k = delta s i v k := by
  induction k with
  | zero => rw [delta, delta, h.config.1, h.layers i hi 0 hk]
  | succ k ih => rw [delta, delta, h.config.1, h.layers i hi _ hk, ih (by omega)]

theorem SameMessage.residual_eq {i : Nat} (hi : i < s.straps.C) (v : Word) :
    residual s' s.j i v = residual s s.j i v := by
  unfold residual
  split
  · rfl
  · exact h.delta_eq hi (by simp only [Config.D]; omega) v

theorem SameMessage.takeSample_residuals_eq (v q : List Word) : (takeSample v q s').2 = (takeSample v q s).2 := by
  rw [takeSample_residuals, takeSample_residuals, h.straps, h.count]
  refine List.map_congr_left fun i hi => ?_
  rw [h.spatial_eq, h.residual_eq (List.mem_range.1 hi)]

/-- One more sample writes the same in both. -/
theorem SameMessage.takeSample (v q : List Word) :
    SameMessage (takeSample v q s).1 (takeSample v q s').1 where
  straps := by rw [takeSample_straps, takeSample_straps, h.straps]
  config := by
    rw [SameConfig, takeSample_ctrlXor, takeSample_ctrlXor, takeSample_sref, takeSample_sref]
    exact h.config
  count := by rw [takeSample_j, takeSample_j, h.count]
  layers i hi k hk := by
    rw [takeSample_straps] at hi
    rw [takeSample_j] at hk
    rw [takeSample_prevAt, takeSample_prevAt, h.straps, h.count, h.spatial_eq]
    match k with
    | 0 => rw [if_pos ⟨hi, rfl⟩, if_pos ⟨hi, rfl⟩]
    | k + 1 =>
      have hwritten : k + 1 ≤ min s.j (Config.D - 1) := by simp only [Config.D]; omega
      have hupper : ¬ (i < s.straps.C ∧ k + 1 = 0) := fun e => Nat.succ_ne_zero k e.2
      rw [if_neg hupper, if_neg hupper, if_pos ⟨hi, hwritten⟩, if_pos ⟨hi, hwritten⟩]
      exact h.delta_eq hi (by omega) _
  residuals i hi j hj := by
    rw [takeSample_straps] at hi
    rw [takeSample_j] at hj
    rw [takeSample_resAt, takeSample_resAt, h.straps, h.count, h.spatial_eq, h.residual_eq hi]
    by_cases hlast : s.j = j
    · rw [if_pos ⟨hi, hlast⟩, if_pos ⟨hi, hlast⟩]
    · rw [if_neg (fun e => hlast e.2), if_neg (fun e => hlast e.2), h.residuals i hi j (by omega)]
  runs _ i hi := by
    rw [takeSample_straps] at hi
    obtain ⟨hcount, hruns⟩ := takeSample_runs v q s i
    obtain ⟨hcount', hruns'⟩ := takeSample_runs v q s' i
    rw [h.straps] at hcount' hruns'
    rw [if_pos hi] at hcount hruns hcount' hruns'
    rw [h.count] at hcount' hruns'
    have hpush := SameLiveRuns.pushQuality (fun hj => h.runs hj i hi) (elem q i)
    refine ⟨by rw [hcount, hcount', hpush.count], by rw [hcount]; exact hpush.live, fun r hr => ?_⟩
    rw [hcount] at hr
    rw [hruns, hruns', hpush.runs r hr]

/-! ## The end of a message -/

theorem SameMessage.valuesSection_eq : valuesSection s' s'.j = valuesSection s s.j := by
  rw [valuesSection, valuesSection, h.straps, h.count]
  split
  · rw [valuesS8, valuesS8, h.straps]
    refine List.flatMap_congr fun i hi => ?_
    have hslots : zigzagResiduals s' s.j i = zigzagResiduals s s.j i :=
      List.map_congr_left fun j hj => by rw [h.residuals i (List.mem_range.1 hi) j (List.mem_range.1 hj)]
    rw [hslots]
  · rw [valuesVarint, valuesVarint, h.straps]
    refine List.flatMap_congr fun p hp => ?_
    obtain ⟨hj, hi⟩ := (mem_places s.j s.straps.C p.1 p.2).1 hp
    rw [h.residuals p.2 hi p.1 hj]

/-- Finalising an unfinished message returns the same payload in both. -/
theorem SameMessage.finalise_payload_eq (hj : s.j ≠ 0) : (finalise s').2.2 = (finalise s).2.2 := by
  rw [finalise_payload, finalise_payload, h.valuesSection_eq, h.straps]
  congr 1
  refine List.flatMap_congr fun i hi => ?_
  have hsame := h.runs hj i (List.mem_range.1 hi)
  rw [hsame.count]
  refine List.flatMap_congr fun r hr => ?_
  rw [flushedRun, flushedRun, hsame.count, hsame.runs r (List.mem_range.1 hr)]

theorem SameMessage.finalise : SameMessage (finalise s).1 (finalise s').1 := by
  obtain ⟨u, hframe⟩ := finalise_frame s
  obtain ⟨u', hframe'⟩ := finalise_frame s'
  rw [hframe, hframe']
  exact .of_idle h.straps h.config rfl rfl

theorem SameMessage.clearMessage : SameMessage (clearMessage s) (clearMessage s') :=
  .of_idle h.straps h.config rfl rfl

/-! ## The commands -/

theorem SameMessage.exec_esamp (v q : List Word) : EndAlike s s' (exec (.esamp v q) s) (exec (.esamp v q) s') := by
  have htaken := h.takeSample v q
  by_cases hfull : s.j + 1 = s.straps.N
  · rw [exec_esamp_of_eq hfull, exec_esamp_of_eq (by rw [h.count, h.straps, hfull]), h.takeSample_residuals_eq,
      htaken.finalise_payload_eq (by simp), finalise_count, finalise_count, htaken.count]
    exact .of_respond htaken.finalise _ (by simp) (by simp)
  · rw [exec_esamp_of_ne hfull, exec_esamp_of_ne (by rw [h.count, h.straps]; exact hfull), h.takeSample_residuals_eq]
    exact .of_respond htaken _ (by simp) (by simp)

theorem SameMessage.exec_eflush : EndAlike s s' (exec .eflush s) (exec .eflush s') := by
  simp only [exec, execEflush, h.count]
  split
  · exact ⟨_, _, responsePacket FaultKind.stateViolation.code [0], rfl, rfl, rfl, rfl, h.straps, h.config, h.count,
      h.layers, h.residuals, fun hj i hi => have hr := h.runs hj i hi; ⟨hr.count, hr.live, hr.runs⟩⟩
  · rename_i hj
    rw [h.finalise_payload_eq hj, finalise_count, finalise_count, h.count]
    exact .of_respond h.finalise _ (by simp) (by simp)

theorem SameMessage.exec_encode {i : Instr} (hi : isEncode i = true) : EndAlike s s' (exec i s) (exec i s') := by
  cases i with
  | esamp v q => exact h.exec_esamp v q
  | eflush => exact h.exec_eflush
  | ecancel => exact .of_respond h.clearMessage [] rfl rfl
  | _ => cases hi

theorem SameMessage.execAll_encode {is : List Instr} (his : ∀ i ∈ is, isEncode i = true) {t : State}
    (ht : execAll is s = .next t) :
    ∃ t' new, execAll is s' = .next t' ∧ t.responses = s.responses ++ new ∧
      t'.responses = s'.responses ++ new := by
  induction is generalizing s s' with
  | nil =>
    cases ht
    exact ⟨s', [], rfl, by simp, by simp⟩
  | cons i is ih =>
    obtain ⟨u, u', r, hexec, hexec', hr, hr', hsame⟩ := h.exec_encode (his i List.mem_cons_self)
    rw [execAll_cons hexec] at ht
    obtain ⟨t', new, hall, hnew, hnew'⟩ := ih hsame (fun i hi => his i (List.mem_cons_of_mem _ hi)) ht
    refine ⟨t', r :: new, by rw [execAll_cons hexec', hall], ?_, ?_⟩
    · rw [hnew, hr, List.append_assoc, List.singleton_append]
    · rw [hnew', hr', List.append_assoc, List.singleton_append]

end

/-- Settles O15: idle states agree (`SameMessage.of_idle`), and every encode command keeps the agreement and answers
alike in both. -/
theorem payloadsHaveNoHiddenInput : Obligations.PayloadsHaveNoHiddenInput := by
  intro is s s' t his hstraps hconfig hj hj' ht
  exact (SameMessage.of_idle hstraps hconfig hj hj').execAll_encode his ht

end Sys2Proof.Machine
end

section
/-! PROOFS of the family 44_quality_rle.md. The runs of a list of quality words (R230 to R235): what they expand to, how
one more word changes them, and where each of them starts. -/

namespace Sys2Proof.Machine

/-! ## What the runs expand to (R233) -/

/-- Runs written out, in order. -/
def expanded (runs : List (Word × Nat)) : List Word := runs.flatMap fun x => List.replicate x.2 x.1

theorem expanded_cons (v : Word) (l : Nat) (runs : List (Word × Nat)) :
    expanded ((v, l) :: runs) = List.replicate l v ++ expanded runs := List.flatMap_cons

theorem expanded_runsOf (qs : List Word) : expanded (runsOf qs) = qs := by
  induction qs with
  | nil => rfl
  | cons q qs ih =>
    rw [runsOf]
    split
    next hruns =>
      rw [hruns] at ih
      rw [expanded_cons, ih]
      rfl
    next v n rest hruns =>
      rw [hruns, expanded_cons] at ih
      split
      next hv => rw [expanded_cons, List.replicate_succ, List.cons_append, ih, hv]
      next => rw [expanded_cons, expanded_cons, ih]; rfl

/-- Adjacent runs differ in value. -/
theorem runsOf_isChain (qs : List Word) : (runsOf qs).IsChain fun x y => x.1 ≠ y.1 := by
  induction qs with
  | nil => exact .nil
  | cons q qs ih =>
    rw [runsOf]
    split
    next => exact .singleton _
    next v n rest hruns =>
      rw [hruns] at ih
      split
      next => exact List.isChain_cons.2 (List.isChain_cons.1 ih)
      next hv => exact .cons_cons (Ne.symm hv) ih

/-- The runs after one more word: it lengthens the last run, or starts a new one (R231, R232). -/
def pushRun (q : Word) : List (Word × Nat) → List (Word × Nat)
  | [] => [(q, 1)]
  | [(v, n)] => if v = q then [(v, n + 1)] else [(v, n), (q, 1)]
  | x :: y :: rest => x :: pushRun q (y :: rest)

theorem runsOf_append_singleton (qs : List Word) (q : Word) : runsOf (qs ++ [q]) = pushRun q (runsOf qs) := by
  induction qs with
  | nil => rfl
  | cons a qs ih =>
    rw [List.cons_append, runsOf, ih, runsOf]
    match runsOf qs with
    | [] =>
      by_cases h : q = a
      · simp [pushRun, h]
      · simp [pushRun, h, Ne.symm h]
    | [(v, n)] =>
      rcases eq_or_ne v q with rfl | hq
      · by_cases ha : v = a <;> simp [pushRun, ha]
      · rcases eq_or_ne v a with rfl | ha
        · simp [pushRun, hq]
        · simp [pushRun, hq, ha]
    | (v, n) :: y :: rest => by_cases ha : v = a <;> simp [pushRun, ha]

theorem pushRun_append_singleton (q : Word) (R : List (Word × Nat)) (v : Word) (n : Nat) :
    pushRun q (R ++ [(v, n)]) = R ++ if v = q then [(v, n + 1)] else [(v, n), (q, 1)] := by
  induction R with
  | nil => rfl
  | cons x R ih =>
    match R with
    | [] => exact congrArg (x :: ·) ih
    | y :: R => exact congrArg (x :: ·) ih

/-! ## Where a run starts (R244) -/

@[simp] theorem runStart_zero (runs : List (Word × Nat)) : runStart runs 0 = 0 := rfl

@[simp] theorem runStart_cons_succ (x : Word × Nat) (runs : List (Word × Nat)) (r : Nat) :
    runStart (x :: runs) (r + 1) = x.2 + runStart runs r := by
  rw [runStart, List.take_succ_cons, List.map_cons, List.sum_cons, runStart]

/-- Every entry of a run's expansion holds the run's value. -/
theorem expanded_getD {runs : List (Word × Nat)} {r j : Nat} {v : Word} {l : Nat} (hrun : runs[r]? = some (v, l))
    (hfrom : runStart runs r ≤ j) (hto : j < runStart runs r + l) : (expanded runs).getD j 0 = v := by
  induction runs generalizing r j with
  | nil => cases hrun
  | cons x runs ih =>
    rw [expanded_cons]
    cases r with
    | zero =>
      obtain rfl : x = (v, l) := Option.some.inj hrun
      rw [runStart_zero, Nat.zero_add] at hto
      rw [List.getD_append _ _ _ _ (by simpa using hto), List.getD_replicate _ hto]
    | succ r =>
      rw [runStart_cons_succ] at hfrom hto
      rw [List.getD_append_right _ _ _ _ (by simp; omega), List.length_replicate]
      exact ih hrun (by omega) (by omega)

theorem runsOf_getD {qs : List Word} {r j : Nat} {v : Word} {l : Nat} (hrun : (runsOf qs)[r]? = some (v, l))
    (hfrom : runStart (runsOf qs) r ≤ j) (hto : j < runStart (runsOf qs) r + l) : qs.getD j 0 = v := by
  rw [← expanded_getD hrun hfrom hto, expanded_runsOf]

/-- The last run holds the last word. -/
theorem runsOf_getLast? {qs : List Word} {v : Word} {l : Nat} (h : (runsOf qs).getLast? = some (v, l)) :
    qs.getD (qs.length - 1) 0 = v := by
  obtain ⟨R, hruns⟩ := List.getLast?_eq_some_iff.1 h
  obtain ⟨k, rfl⟩ : ∃ k, l = k + 1 :=
    Nat.exists_eq_succ_of_ne_zero (Nat.ne_of_gt (one_le_of_mem_runsOf (List.mem_of_getLast? h)))
  have hqs : qs = expanded R ++ List.replicate k v ++ [v] := by
    rw [← expanded_runsOf qs, hruns, expanded, List.flatMap_append, List.flatMap_singleton, List.replicate_succ',
      List.append_assoc]
    rfl
  rw [hqs]
  simp

theorem exists_getLast?_runsOf {qs : List Word} (h : qs ≠ []) : ∃ v l, (runsOf qs).getLast? = some (v, l) :=
  ⟨_, _, List.getLast?_eq_some_getLast (runsOf_ne_nil h)⟩

/-- Every place below the sum of the lengths lies in a run. -/
theorem exists_run_of_lt_sum {runs : List (Word × Nat)} {j : Nat} (hj : j < (runs.map Prod.snd).sum) :
    ∃ r v l, runs[r]? = some (v, l) ∧ runStart runs r ≤ j ∧ j < runStart runs r + l := by
  induction runs generalizing j with
  | nil => exact absurd hj (Nat.not_lt_zero j)
  | cons x runs ih =>
    obtain ⟨v, l⟩ := x
    rcases Nat.lt_or_ge j l with hfirst | hlater
    · exact ⟨0, v, l, rfl, Nat.zero_le j, by simpa using hfirst⟩
    · rw [List.map_cons, List.sum_cons] at hj
      obtain ⟨r, w, m, hrun, hfrom, hto⟩ := ih (j := j - l) (by omega)
      refine ⟨r + 1, w, m, hrun, ?_, ?_⟩ <;> rw [runStart_cons_succ] <;> simp only <;> omega

theorem exists_run_of_lt {qs : List Word} {j : Nat} (hj : j < qs.length) :
    ∃ r v l, (runsOf qs)[r]? = some (v, l) ∧ runStart (runsOf qs) r ≤ j ∧ j < runStart (runsOf qs) r + l :=
  exists_run_of_lt_sum (by rwa [sum_runsOf])

theorem runStart_add_le_sum {runs : List (Word × Nat)} {r : Nat} {v : Word} {l : Nat} (hrun : runs[r]? = some (v, l)) :
    runStart runs r + l ≤ (runs.map Prod.snd).sum := by
  induction runs generalizing r with
  | nil => cases hrun
  | cons x runs ih =>
    rw [List.map_cons, List.sum_cons]
    cases r with
    | zero =>
      obtain rfl : x = (v, l) := Option.some.inj hrun
      rw [runStart_zero]; omega
    | succ r =>
      have := ih hrun
      rw [runStart_cons_succ]; omega

end Sys2Proof.Machine
end

section
/-! PROOFS of the family 44_quality_rle.md. The encoder's side: the live runs of a channel are the runs of its quality
words (R231 to R233), and the quality section writes them with the last length 0 (R234, R235). -/

namespace Sys2Proof.Machine

theorem length_le_of_mem_runsOf {qs : List Word} {x : Word × Nat} (h : x ∈ runsOf qs) : x.2 ≤ qs.length := by
  rw [← sum_runsOf qs]
  exact List.le_sum_of_mem (List.mem_map_of_mem h)

/-! ## The live runs of a channel (R230) -/

/-- The live runs of channel `i`, in the order they were started. -/
def liveRuns (s : State) (i : Nat) : List Run := (List.range (s.runcntAt i)).map (s.runAt i)

/-- A run as an entry of `RUN` (10_state.md R29). -/
def storedRun (x : Word × Nat) : Run := ⟨x.1, natWord x.2⟩

@[simp] theorem liveRuns_length (s : State) (i : Nat) : (liveRuns s i).length = s.runcntAt i := by
  rw [liveRuns, List.length_map, List.length_range]

theorem liveRuns_congr {s t : State} {i : Nat} (hcount : t.runcntAt i = s.runcntAt i)
    (hruns : ∀ r, t.runAt i r = s.runAt i r) : liveRuns t i = liveRuns s i := by
  rw [liveRuns, liveRuns, hcount]
  exact List.map_congr_left fun r _ => hruns r

theorem liveRuns_of_count {s : State} {i n : Nat} (h : s.runcntAt i = n + 1) :
    liveRuns s i = (List.range n).map (s.runAt i) ++ [s.runAt i n] := by
  rw [liveRuns, h, List.range_succ, List.map_append]
  rfl

/-- The last live run, and those before it. -/
theorem runs_of_liveRuns_eq_append {s : State} {i : Nat} {R : List Run} {x : Run} (h : liveRuns s i = R ++ [x]) :
    s.runcntAt i = R.length + 1 ∧ (List.range R.length).map (s.runAt i) = R ∧ s.runAt i R.length = x := by
  have hcount : s.runcntAt i = R.length + 1 := by rw [← liveRuns_length, h, List.length_append, List.length_singleton]
  rw [liveRuns_of_count hcount] at h
  obtain ⟨hinit, hlast⟩ := List.append_inj' h rfl
  exact ⟨hcount, hinit, List.singleton_inj.1 hlast⟩

/-- A state whose last live run `n` is what a write to `RUN[i][n]` leaves: the runs before it are the old ones. -/
theorem liveRuns_of_setRun {s t : State} {i n : Nat} {x : Run} (hcount : t.runcntAt i = n + 1)
    (hruns : ∀ r, t.runAt i r = (s.setRun i n x).runAt i r) :
    liveRuns t i = (List.range n).map (s.runAt i) ++ [x] := by
  rw [liveRuns_of_count hcount, hruns, setRun_runAt, if_pos ⟨rfl, rfl⟩]
  congr 1
  refine List.map_congr_left fun r hr => ?_
  rw [hruns, setRun_runAt, if_neg]
  rintro ⟨-, rfl⟩
  exact Nat.lt_irrefl _ (List.mem_range.1 hr)

/-! ## The push (R231, R232) -/

theorem natWord_succ (n : Nat) : natWord (n + 1) = natWord n + 1 := BitVec.ofNat_add n 1

/-- The last run after a push, as it is stored. -/
theorem map_storedRun_ite (v q : Word) (l : Nat) :
    (if v = q then [(v, l + 1)] else [(v, l), (q, 1)]).map storedRun =
      if v = q then [⟨v, natWord l + 1⟩] else [storedRun (v, l), ⟨q, 1⟩] := by
  split
  · rw [List.map_singleton, storedRun, natWord_succ]
  · rfl

theorem liveRuns_pushQuality_zero (i : Nat) (q : Word) (s : State) :
    liveRuns (pushQuality 0 i q s) i = [⟨q, 1⟩] := by
  simp [liveRuns, pushQuality]

theorem liveRuns_pushQuality {j i : Nat} {s : State} {R : List Run} {x : Run} (hj : j ≠ 0)
    (h : liveRuns s i = R ++ [x]) (q : Word) :
    liveRuns (pushQuality j i q s) i = R ++ if x.value = q then [⟨x.value, x.len + 1⟩] else [x, ⟨q, 1⟩] := by
  obtain ⟨hcount, hinit, hlast⟩ := runs_of_liveRuns_eq_append h
  simp only [pushQuality, if_neg hj, hcount, Nat.add_sub_cancel, hlast]
  split
  · refine Eq.trans (liveRuns_of_setRun (s := s) hcount fun _ => rfl) ?_
    rw [hinit]
  · refine Eq.trans (liveRuns_of_setRun (s := s) (n := R.length + 1) (by simp) fun _ => rfl) ?_
    rw [← hcount, ← liveRuns, h, List.append_assoc]
    rfl

theorem liveRuns_takeSample (v q : List Word) {s : State} {i : Nat} (hi : i < s.straps.C) :
    liveRuns (takeSample v q s).1 i = liveRuns (pushQuality s.j i (elem q i) s) i := by
  obtain ⟨hcount, hruns⟩ := takeSample_runs v q s i
  rw [if_pos hi] at hcount hruns
  exact liveRuns_congr hcount hruns

/-! ## A message under way (R233) -/

/-- `t` has taken the samples `xs` of a message, on a block with the straps `p`: the live runs of a channel are the runs
of its quality words. -/
structure Compressed (p : Straps) (xs : List Sample) (t : State) : Prop where
  count : t.j = xs.length
  straps : t.straps = p
  runs : xs ≠ [] → ∀ i, i < p.C → liveRuns t i = (runsOf (qualityWords xs i)).map storedRun

theorem Compressed.start {s : State} (h : s.j = 0) : Compressed s.straps [] s := ⟨h, rfl, fun hne => absurd rfl hne⟩

theorem qualityWords_append_singleton (xs : List Sample) (x : Sample) (i : Nat) :
    qualityWords (xs ++ [x]) i = qualityWords xs i ++ [elem x.2 i] := List.map_append

theorem qualityWords_ne_nil {xs : List Sample} (h : xs ≠ []) (i : Nat) : qualityWords xs i ≠ [] := by
  simpa [qualityWords] using h

theorem qualityWords_length (xs : List Sample) (i : Nat) : (qualityWords xs i).length = xs.length := List.length_map _

section

variable {p : Straps} {xs : List Sample} {t : State} (h : Compressed p xs t)

include h

theorem Compressed.respond (ws : List Word) : Compressed p xs (respond ws t) := ⟨h.count, h.straps, h.runs⟩

theorem Compressed.next (x : Sample) : Compressed p (xs ++ [x]) (takeSample x.1 x.2 t).1 where
  count := by rw [takeSample_j, h.count, List.length_append, List.length_singleton]
  straps := by rw [takeSample_straps, h.straps]
  runs _ i hi := by
    rw [liveRuns_takeSample _ _ (h.straps.symm ▸ hi), h.count, qualityWords_append_singleton,
      runsOf_append_singleton]
    rcases eq_or_ne xs [] with rfl | hne
    · exact liveRuns_pushQuality_zero i _ t
    · rcases List.eq_nil_or_concat' (runsOf (qualityWords xs i)) with hnil | ⟨R, ⟨v, l⟩, hruns⟩
      · exact absurd hnil (runsOf_ne_nil (qualityWords_ne_nil hne i))
      · have hlive := h.runs hne i hi
        rw [hruns, List.map_append] at hlive
        rw [liveRuns_pushQuality (mt List.length_eq_zero_iff.1 hne) hlive, hruns, pushRun_append_singleton,
          List.map_append, map_storedRun_ite]
        rfl

theorem Compressed.feed (ys : List Sample) : Compressed p (xs ++ ys) (feed ys t) := by
  induction ys generalizing xs t with
  | nil => rwa [List.append_nil]
  | cons y ys ih =>
    rw [List.append_cons]
    exact ih (h.next y)

/-- `ESAMP` of samples that leave the message unfinished. -/
theorem Compressed.execAll_esamp {ys : List Sample} (hroom : xs.length + ys.length < p.N) :
    ∃ u, execAll (ys.map Sample.esamp) t = .next u ∧ Compressed p (xs ++ ys) u := by
  induction ys generalizing xs t with
  | nil => exact ⟨t, rfl, by rwa [List.append_nil]⟩
  | cons y ys ih =>
    rw [List.length_cons] at hroom
    have hfirst : exec y.esamp t = _ := exec_esamp_of_ne (by rw [h.count, h.straps]; omega) y.1 y.2
    obtain ⟨u, hexec, hu⟩ := ih ((h.next y).respond _) (by simp; omega)
    rw [← List.append_cons] at hu
    exact ⟨u, by rw [List.map_cons, execAll_cons hfirst]; exact hexec, hu⟩

end

/-! ## What the live runs are (R233) -/

theorem natWord_toNat {n : Nat} (h : n < 2 ^ 32) : (natWord n).toNat = n := by
  rw [natWord, BitVec.toNat_ofNat, Nat.mod_eq_of_lt h]

theorem runLengths_eq (s : State) (i : Nat) : runLengths s i = (liveRuns s i).map fun x => x.len.toNat := by
  rw [liveRuns, List.map_map]
  rfl

section

variable {s : State} {i : Nat} {qs : List Word} (hlive : liveRuns s i = (runsOf qs).map storedRun)

include hlive

theorem runcntAt_of_liveRuns : s.runcntAt i = (runsOf qs).length := by
  rw [← liveRuns_length, hlive, List.length_map]

theorem runAt_of_liveRuns {r : Nat} (hr : r < (runsOf qs).length) : s.runAt i r = storedRun (runsOf qs)[r] := by
  have hget : (liveRuns s i)[r]'(by rwa [hlive, List.length_map]) = s.runAt i r := by simp [liveRuns]
  rw [← hget]
  simp [hlive]

/-- A stored length is that of the run: it is at most the number of samples, which fits a word. -/
theorem lengths_of_liveRuns (hfits : qs.length < 2 ^ 32) : runLengths s i = (runsOf qs).map Prod.snd := by
  rw [runLengths_eq, hlive, List.map_map]
  exact List.map_congr_left fun x hx => natWord_toNat (Nat.lt_of_le_of_lt (length_le_of_mem_runsOf hx) hfits)

theorem expanded_of_liveRuns (hfits : qs.length < 2 ^ 32) :
    ((List.range (s.runcntAt i)).flatMap fun r =>
      List.replicate (s.runAt i r).len.toNat (s.runAt i r).value) = qs := by
  calc _ = (liveRuns s i).flatMap fun x => List.replicate x.len.toNat x.value := by rw [liveRuns, List.flatMap_map]
    _ = expanded (runsOf qs) := by
      rw [hlive, List.flatMap_map]
      refine List.flatMap_congr fun x hx => ?_
      rw [storedRun, natWord_toNat (Nat.lt_of_le_of_lt (length_le_of_mem_runsOf hx) hfits)]
    _ = qs := expanded_runsOf qs

theorem runsAccumulate_of_liveRuns (hfits : qs.length < 2 ^ 32) (hne : qs ≠ []) (hj : s.j = qs.length) :
    RunsAccumulate s i := by
  have hcount := runcntAt_of_liveRuns hlive
  have hpos {x : Word × Nat} (hx : x ∈ runsOf qs) : 1 ≤ x.2 := one_le_of_mem_runsOf hx
  refine ⟨?_, ?_, fun r hr => ?_, ?_, fun r hr => ?_⟩
  · rw [hcount]
    exact List.length_pos_iff.2 (runsOf_ne_nil hne)
  · rw [hcount, hj, ← sum_runsOf qs]
    exact length_le_sum_runs fun x hx => hpos hx
  · rw [hcount] at hr
    have hmem := List.getElem_mem hr
    rw [runAt_of_liveRuns hlive hr, storedRun,
      natWord_toNat (Nat.lt_of_le_of_lt (length_le_of_mem_runsOf hmem) hfits)]
    exact hpos hmem
  · rw [lengths_of_liveRuns hlive hfits, sum_runsOf, hj]
  · rw [hcount] at hr
    rw [runAt_of_liveRuns hlive hr, runAt_of_liveRuns hlive (Nat.lt_of_succ_lt hr)]
    exact List.isChain_iff_getElem.1 (runsOf_isChain qs) r hr

end

/-- Settles O40: the live runs of a channel are the runs of its quality words (`Compressed`), and those accumulate and
expand as R233 says. -/
theorem runsDescribeQuality : Obligations.RunsDescribeQuality := by
  intro s xs hlegal hj hne hroom
  obtain ⟨t, hexec, ht⟩ := (Compressed.start hj).execAll_esamp (ys := xs) (by simpa using hroom)
  rw [List.nil_append] at ht
  refine ⟨t, hexec, ht.count, fun i hi => ?_⟩
  have hN := N_lt_of_strapsLegal hlegal
  have hlive := ht.runs hne i hi
  have hlen := qualityWords_length xs i
  exact ⟨runsAccumulate_of_liveRuns hlive (by omega) (qualityWords_ne_nil hne i) (ht.count.trans hlen.symm),
    expanded_of_liveRuns hlive (by omega)⟩

/-! ## Flush and serialise (R234, R235) -/

theorem wireRuns_append_singleton (R : List (Word × Nat)) (v : Word) (l : Nat) :
    wireRuns (R ++ [(v, l)]) = (R.map fun x => (x.1, natWord x.2)) ++ [(v, 0)] := by
  induction R with
  | nil => rfl
  | cons x R ih =>
    match R with
    | [] => rfl
    | y :: R => exact congrArg ((x.1, natWord x.2) :: ·) ih

theorem channelQuality_eq (s : State) (i : Nat) : channelQuality s i = (liveRuns s i).flatMap runBytes := by
  rw [channelQuality, liveRuns, List.flatMap_map]

theorem liveRuns_flushRuns {s : State} {is : List Nat} {i : Nat} (hi : i ∈ is) {R : List Run} {x : Run}
    (h : liveRuns s i = R ++ [x]) : liveRuns (flushRuns is s) i = R ++ [⟨x.value, 0⟩] := by
  obtain ⟨hcount, hinit, hlast⟩ := runs_of_liveRuns_eq_append h
  obtain ⟨u, hframe⟩ := flushRuns_frame is s
  refine Eq.trans (liveRuns_of_setRun (s := s) (x := ⟨x.value, 0⟩) (by rw [hframe]; exact hcount) fun r => ?_)
    (by rw [hinit])
  rw [flushRuns_runAt, setRun_runAt, hcount, Nat.add_sub_cancel]
  rcases eq_or_ne r R.length with rfl | hr
  · rw [if_pos ⟨hi, rfl⟩, if_pos ⟨rfl, rfl⟩, hlast]
  · rw [if_neg fun e => hr e.2, if_neg fun e => hr e.2.symm]

/-- Flushing turns the runs of a channel into its wire runs. -/
theorem channelQuality_flushRuns {s : State} {is : List Nat} {i : Nat} {qs : List Word} (hi : i ∈ is)
    (hne : qs ≠ []) (hlive : liveRuns s i = (runsOf qs).map storedRun) :
    channelQuality (flushRuns is s) i = wireBytes (wireRuns (runsOf qs)) := by
  obtain ⟨R, ⟨v, l⟩, hruns⟩ := (List.eq_nil_or_concat' (runsOf qs)).resolve_left (runsOf_ne_nil hne)
  rw [hruns, List.map_append] at hlive
  rw [channelQuality_eq, liveRuns_flushRuns hi hlive, hruns, wireRuns_append_singleton, wireBytes,
    List.flatMap_append, List.flatMap_append, List.flatMap_map, List.flatMap_map]
  rfl

theorem Compressed.qualitySection_flushRuns {p : Straps} {xs : List Sample} {t : State} (h : Compressed p xs t)
    (hne : xs ≠ []) : qualitySection (flushRuns (List.range p.C) t) = messageQuality p xs := by
  obtain ⟨u, hframe⟩ := flushRuns_frame (List.range p.C) t
  have hstraps : (flushRuns (List.range p.C) t).straps = p := by rw [hframe]; exact h.straps
  rw [qualitySection, hstraps, messageQuality, qualityBytes]
  exact List.flatMap_congr fun i hi =>
    channelQuality_flushRuns hi (qualityWords_ne_nil hne i) (h.runs hne i (List.mem_range.1 hi))

end Sys2Proof.Machine
end

section
/-! PROOFS of the family 44_quality_rle.md. The decoder's side: what the expander writes for one pair (R240 to R242,
R246) and for the wire runs of a channel, in both fill modes (R241, R244). -/

namespace Sys2Proof.Machine

/-! ## One pair (R240 to R242) -/

/-- The entry at which the fill of a pair of this length ends (R241, R246). -/
def fillEnd (p : Straps) (cur length : Nat) : Nat :=
  if length = 0 then p.N
  else
    match p.fill with
    | .abs => length
    | .cnt => min (cur + length) p.N

theorem mem_fillIndices (p : Straps) (cur length j : Nat) :
    j ∈ fillIndices p cur length ↔ cur < j ∧ j < fillEnd p cur length := by
  unfold fillIndices fillEnd
  split
  · rw [List.mem_range'_1]; omega
  · cases p.fill <;> simp only [List.mem_range'_1] <;> omega

/-- No fill but the sentinel's goes beyond the length of the pair. -/
theorem fillEnd_le {p : Straps} {cur length : Nat} (h : length ≠ 0) : fillEnd p cur length ≤ cur + length := by
  rw [fillEnd, if_neg h]
  cases p.fill
  · exact Nat.le_add_left _ _
  · exact Nat.min_le_left _ _

/-- What the expander writes for a pair `(v, length)` read at the cursor. -/
def writePair (i cur : Nat) (v : Word) (length : Nat) (s : State) : State :=
  fillQuality i v (fillIndices s.straps cur length) (s.setOutQuality cur i v)

section

variable (i cur : Nat) (v : Word) (length : Nat) (s : State)

theorem writePair_frame :
    writePair i cur v length s = { s with outQuality := (writePair i cur v length s).outQuality } := by
  obtain ⟨o, h⟩ := fillQuality_frame i v (fillIndices s.straps cur length) (s.setOutQuality cur i v)
  rw [writePair, h]
  rfl

@[simp] theorem writePair_straps : (writePair i cur v length s).straps = s.straps := by rw [writePair_frame]

theorem writePair_outQualityAt (j i' : Nat) : (writePair i cur v length s).outQualityAt j i' =
    if i' = i ∧ (j = cur ∨ cur < j ∧ j < fillEnd s.straps cur length) then v else s.outQualityAt j i' := by
  simp only [writePair, fillQuality_outQualityAt, mem_fillIndices, setOutQuality_outQualityAt, eq_comm (a := i')]
  by_cases hi : i = i'
  · by_cases hcur : j = cur
    · simp [hcur]
    · simp [hi, hcur, Ne.symm hcur]
  · simp [hi]

end

/-- Settles O53: one turn of the expander, with the entries of `writePair`. -/
theorem qualityLengthRange : Obligations.QualityLengthRange := by
  intro B i n fuel cur pos pos' v l s hcur _ hread
  refine ⟨fun hl => ?_,
    fun hl => ⟨writePair i cur v l.toNat s, writePair_frame i cur v _ s, fun j i' => ?_, ?_⟩⟩
  · rw [expandRuns, if_neg (Nat.not_le.2 hcur), hread]
    simp only [if_pos hl]
  · rw [writePair_outQualityAt, fillEnd]
    have hzero : l.toNat = 0 ↔ l = 0 := BitVec.toNat_inj (y := 0)
    cases s.straps.fill <;> simp only [hzero]
  · rw [expandRuns_turn hcur hread hl, ← writePair]
    by_cases h0 : l = 0
    · rw [if_pos h0, if_pos (.inl h0), expandRuns_of_le (Nat.le_refl n)]
    · rw [if_neg h0]
      by_cases hdone : n ≤ cur + l.toNat
      · rw [if_pos (.inr hdone), expandRuns_of_le hdone]
      · rw [if_neg (not_or.2 ⟨h0, hdone⟩)]

/-! ## The wire runs of a channel (R240, R244) -/

/-- What the expander writes for the wire runs of a channel from the cursor on: the last length is the sentinel. -/
def writeRuns (i : Nat) : List (Word × Nat) → Nat → State → State
  | [], _, s => s
  | [(v, _)], cur, s => writePair i cur v 0 s
  | (v, l) :: x :: rest, cur, s => writeRuns i (x :: rest) (cur + l) (writePair i cur v l s)

/-- The expander reads the wire runs of a channel back to their last byte, and writes `writeRuns`. -/
theorem expandRuns_wireRuns_eq (i n : Nat) (S : List Byte) {runs : List (Word × Nat)} (hne : runs ≠ [])
    (hpos : ∀ x ∈ runs, 1 ≤ x.2) {fuel cur : Nat} (P : List Byte) {s : State} (hfuel : runs.length ≤ fuel)
    (hsum : cur + (runs.map Prod.snd).sum = n) (hn : n ≤ s.straps.N) (hN : s.straps.N < 2 ^ 32) :
    expandRuns (P ++ (wireBytes (wireRuns runs) ++ S)) i n fuel cur s P.length =
      .ok (writeRuns i runs cur s, P.length + (wireBytes (wireRuns runs)).length) := by
  fun_induction writeRuns i runs cur s generalizing fuel P with
  | case1 => exact absurd rfl hne
  | case2 v l cur s =>
    obtain ⟨fuel, rfl⟩ := Nat.exists_eq_succ_of_ne_zero (Nat.ne_of_gt (Nat.lt_of_lt_of_le (Nat.succ_pos _) hfuel))
    have hl := hpos (v, l) List.mem_cons_self
    rw [List.map_singleton, List.sum_singleton] at hsum
    have hturn := expandRuns_turn (i := i) (s := s) (n := n) (cur := cur) (by simp only at hl hsum; omega)
      (readPair_uvPut v 0 P S) (Nat.zero_le _) fuel
    rw [wireRuns, wireBytes, List.flatMap_singleton, hturn, if_pos rfl, expandRuns_of_le (Nat.le_refl n)]
    rfl
  | case3 v l x rest cur s ih =>
    obtain ⟨fuel, rfl⟩ := Nat.exists_eq_succ_of_ne_zero (Nat.ne_of_gt (Nat.lt_of_lt_of_le (Nat.succ_pos _) hfuel))
    have hl := hpos (v, l) List.mem_cons_self
    rw [List.map_cons, List.sum_cons] at hsum
    simp only at hl hsum
    have hlen : (natWord l).toNat = l := natWord_toNat (by omega)
    have hl0 : natWord l ≠ 0 := by
      intro h0
      rw [h0] at hlen
      exact absurd hlen.symm (Nat.ne_of_gt hl)
    have hbytes : wireBytes (wireRuns ((v, l) :: x :: rest)) =
        uvPut v ++ uvPut (natWord l) ++ wireBytes (wireRuns (x :: rest)) := List.flatMap_cons
    have hturn := expandRuns_turn (i := i) (s := s) (n := n) (cur := cur) (by omega)
      (readPair_uvPut v (natWord l) P (wireBytes (wireRuns (x :: rest)) ++ S)) (by omega) fuel
    have hrest := ih (List.cons_ne_nil _ _) (fun y hy => hpos y (List.mem_cons_of_mem _ hy)) (fuel := fuel)
      (P ++ (uvPut v ++ uvPut (natWord l))) (Nat.le_of_succ_le_succ hfuel) (by omega)
      (by rwa [writePair_straps]) (by rwa [writePair_straps])
    rw [if_neg hl0, hlen, ← writePair] at hturn
    rw [List.append_assoc, List.length_append] at hrest
    rw [hbytes, List.append_assoc, hturn, hrest, List.length_append (bs := wireBytes _), Nat.add_assoc]

/-! ## Which entries are written (R241, R244, R246) -/

section

variable {i cur l j : Nat} {s : State} (v : Word)

/-- The sentinel writes from the cursor to `N` (R246). -/
theorem writePair_sentinel (hcur : cur ≤ j) (hj : j < s.straps.N) :
    (writePair i cur v 0 s).outQualityAt j i = v := by
  rw [writePair_outQualityAt, fillEnd, if_pos rfl, if_pos ⟨rfl, by omega⟩]

/-- Within its run, a pair writes all entries in mode `CNT`, and in mode `ABS` the first and those below its length. -/
theorem writePair_inside (hcur : cur ≤ j) (hj : j < cur + l) (hN : cur + l ≤ s.straps.N) :
    (writePair i cur v l s).outQualityAt j i =
      if j = cur ∨ s.straps.fill = .cnt ∨ j < l then v else s.outQualityAt j i := by
  have hwritten : (j = cur ∨ cur < j ∧ j < fillEnd s.straps cur l) ↔
      j = cur ∨ s.straps.fill = .cnt ∨ j < l := by
    rw [fillEnd, if_neg (by omega)]
    cases s.straps.fill <;> simp <;> omega
  simp only [writePair_outQualityAt, true_and, hwritten]

/-- Outside its run, a pair with a length writes nothing: it never writes a wrong value (R244). -/
theorem writePair_outside (hl : l ≠ 0) (hj : j < cur ∨ cur + l ≤ j) :
    (writePair i cur v l s).outQualityAt j i = s.outQualityAt j i := by
  have hend := fillEnd_le (p := s.straps) (cur := cur) hl
  rw [writePair_outQualityAt, if_neg]
  rintro ⟨-, hwritten⟩
  omega

theorem writePair_channels {i' : Nat} (h : i' ≠ i) :
    (writePair i cur v l s).outQualityAt j i' = s.outQualityAt j i' := by
  rw [writePair_outQualityAt, if_neg fun e => h e.1]

end

/-- `t` is `s` after the expander has written `runs` on channel `i`, from the cursor on. -/
structure RunsWritten (i : Nat) (runs : List (Word × Nat)) (cur : Nat) (s t : State) : Prop where
  frame : t = { s with outQuality := t.outQuality }
  inside : ∀ r v l j, runs[r]? = some (v, l) → cur + runStart runs r ≤ j → j < cur + runStart runs r + l →
    t.outQualityAt j i =
      if r + 1 = runs.length ∨ j = cur + runStart runs r ∨ s.straps.fill = .cnt ∨ j < l then v
      else s.outQualityAt j i
  beyond : ∀ v l j, runs.getLast? = some (v, l) → cur + (runs.map Prod.snd).sum ≤ j → j < s.straps.N →
    t.outQualityAt j i = v
  outside : ∀ j, j < cur ∨ s.straps.N ≤ j → t.outQualityAt j i = s.outQualityAt j i
  channels : ∀ j i', i' ≠ i → t.outQualityAt j i' = s.outQualityAt j i'

theorem runsWritten_sentinel (i : Nat) (v : Word) {l cur : Nat} {s : State} (hN : cur + l ≤ s.straps.N) (hl : 1 ≤ l) :
    RunsWritten i [(v, l)] cur s (writePair i cur v 0 s) where
  frame := writePair_frame i cur v 0 s
  inside r w m j hrun hfrom hto := by
    match r with
    | 0 =>
      cases hrun
      rw [if_pos (.inl rfl)]
      exact writePair_sentinel v hfrom (by rw [runStart_zero] at hto; omega)
    | r + 1 => cases hrun
  beyond w m j hlast hfrom hj := by
    cases hlast
    exact writePair_sentinel v (by omega) hj
  outside j hj := by
    rw [writePair_outQualityAt, fillEnd, if_pos rfl, if_neg]
    omega
  channels j i' h := writePair_channels v h

theorem RunsWritten.cons {i cur l : Nat} {v : Word} {runs : List (Word × Nat)} {s t : State} (hne : runs ≠ [])
    (h : RunsWritten i runs (cur + l) (writePair i cur v l s) t) (hl : 1 ≤ l) (hN : cur + l ≤ s.straps.N) :
    RunsWritten i ((v, l) :: runs) cur s t where
  frame := by
    rw [h.frame, writePair_frame]
  inside r w m j hrun hfrom hto := by
    match r with
    | 0 =>
      cases hrun
      have hlast : ¬ 0 + 1 = ((v, l) :: runs).length := by simpa using hne
      rw [runStart_zero, Nat.add_zero] at *
      rw [h.outside j (.inl hto), writePair_inside v hfrom hto hN]
      simp only [hlast, false_or, Nat.add_zero]
    | r + 1 =>
      rw [runStart_cons_succ, ← Nat.add_assoc] at *
      have hrest := h.inside r w m j hrun hfrom hto
      rw [writePair_straps, writePair_outside v (by omega) (by omega)] at hrest
      rw [hrest, List.length_cons]
      simp only [Nat.add_right_cancel_iff]
  beyond w m j hlast hfrom hj := by
    rw [List.getLast?_cons_of_ne_nil hne] at hlast
    exact h.beyond w m j hlast (by simp at hfrom; omega) (by rwa [writePair_straps])
  outside j hj := by
    rw [h.outside j (by rw [writePair_straps]; omega), writePair_outside v (by omega) (by omega)]
  channels j i' hi := by rw [h.channels j i' hi, writePair_channels v hi]

theorem runsWritten_writeRuns (i : Nat) {runs : List (Word × Nat)} (hne : runs ≠ []) (hpos : ∀ x ∈ runs, 1 ≤ x.2)
    {cur : Nat} {s : State} (hN : cur + (runs.map Prod.snd).sum ≤ s.straps.N) :
    RunsWritten i runs cur s (writeRuns i runs cur s) := by
  fun_induction writeRuns i runs cur s with
  | case1 => exact absurd rfl hne
  | case2 v l cur s => exact runsWritten_sentinel i v hN (hpos (v, l) List.mem_cons_self)
  | case3 v l x rest cur s ih =>
    rw [List.map_cons, List.sum_cons] at hN
    simp only at hN
    exact (ih (List.cons_ne_nil _ _) (fun y hy => hpos y (List.mem_cons_of_mem _ hy))
      (by rw [writePair_straps]; omega)).cons (List.cons_ne_nil _ _) (hpos (v, l) List.mem_cons_self) (by omega)

/-- The expander on the quality words of a channel, as the encoder writes them. -/
theorem expandRuns_runsOf {d : State} {qs : List Word} (hlegal : strapsLegal d.straps = true) (hne : qs ≠ [])
    (hroom : qs.length ≤ d.straps.N) (P S : List Byte) (i : Nat) :
    ∃ t, expandRuns (P ++ (wireBytes (wireRuns (runsOf qs)) ++ S)) i qs.length qs.length 0 d P.length =
        .ok (t, P.length + (wireBytes (wireRuns (runsOf qs))).length) ∧ RunsWritten i (runsOf qs) 0 d t := by
  have hsum : 0 + ((runsOf qs).map Prod.snd).sum = qs.length := by rw [Nat.zero_add, sum_runsOf]
  have hpos : ∀ x ∈ runsOf qs, 1 ≤ x.2 := fun x hx => one_le_of_mem_runsOf hx
  have hfuel : (runsOf qs).length ≤ qs.length := sum_runsOf qs ▸ length_le_sum_runs hpos
  have hN := N_lt_of_strapsLegal hlegal
  exact ⟨_, expandRuns_wireRuns_eq i _ S (runsOf_ne_nil hne) hpos P hfuel hsum hroom (by omega),
    runsWritten_writeRuns i (runsOf_ne_nil hne) hpos (by omega)⟩

theorem RunsWritten.absFill {i : Nat} {qs : List Word} {d t : State} (h : RunsWritten i (runsOf qs) 0 d t)
    (hfill : d.straps.fill = .abs) {r j : Nat} {v : Word} {l : Nat} (hrun : (runsOf qs)[r]? = some (v, l))
    (hfrom : runStart (runsOf qs) r ≤ j) (hto : j < runStart (runsOf qs) r + l) :
    t.outQualityAt j i =
      if r = 0 ∨ r + 1 = (runsOf qs).length ∨ j = runStart (runsOf qs) r ∨ j < l then qs.getD j 0
      else d.outQualityAt j i := by
  have hfirst : r = 0 → j < l := by
    rintro rfl
    rwa [runStart_zero, Nat.zero_add] at hto
  have hwritten : (r + 1 = (runsOf qs).length ∨ j = 0 + runStart (runsOf qs) r ∨ d.straps.fill = .cnt ∨ j < l) ↔
      (r = 0 ∨ r + 1 = (runsOf qs).length ∨ j = runStart (runsOf qs) r ∨ j < l) := by
    simp only [hfill, Nat.zero_add, reduceCtorEq, false_or]
    tauto
  have hentry := h.inside r v l j hrun (by omega) (by omega)
  simp only [hwritten] at hentry
  rw [hentry, runsOf_getD hrun hfrom hto]

/-- Settles O42, by what every run writes within itself (`RunsWritten`), in mode `ABS`. -/
theorem absFillWrites : Obligations.AbsFillWrites := by
  intro d qs P S i hlegal hfill hne hroom runs bytes
  obtain ⟨t, hexpand, ht⟩ := expandRuns_runsOf hlegal hne hroom P S i
  rw [← List.append_assoc] at hexpand
  refine ⟨t, hexpand, ht.frame, fun r v l j hrun hfrom hto => ht.absFill hfill hrun hfrom hto, fun j hfrom hto => ?_,
    fun j hj => ht.outside j (.inr hj), ht.channels⟩
  obtain ⟨v, l, hlast⟩ := exists_getLast?_runsOf hne
  rw [ht.beyond v l j hlast (by rwa [sum_runsOf, Nat.zero_add]) hto, runsOf_getLast? hlast]

end Sys2Proof.Machine
end

section
/-! PROOFS of the family 44_quality_rle.md. When the quality of a channel comes back: in mode `ABS` exactly under the
condition of R244, in mode `CNT` always; and the round trip of the quality section (R245). -/

namespace Sys2Proof.Machine

/-- The condition of R244: every run but the first and the last has length 1. -/
def MiddleRunsSingle (runs : List (Word × Nat)) : Prop :=
  ∀ r, 0 < r → r + 1 < runs.length → (runs.getD r (0, 0)).2 = 1

/-- In mode `CNT`, or under the condition of R244, every entry of the channel is written, with its own word. -/
theorem RunsWritten.outQualityAt_eq {i : Nat} {qs : List Word} {d t : State} (h : RunsWritten i (runsOf qs) 0 d t)
    (hcond : d.straps.fill = .cnt ∨ MiddleRunsSingle (runsOf qs)) {j : Nat} (hj : j < qs.length) :
    t.outQualityAt j i = qs.getD j 0 := by
  obtain ⟨r, v, l, hrun, hfrom, hto⟩ := exists_run_of_lt hj
  rw [h.inside r v l j hrun (by omega) (by omega), runsOf_getD hrun hfrom hto, if_pos]
  rcases hcond with hcnt | hsingle
  · exact .inr (.inr (.inl hcnt))
  · rcases Nat.eq_zero_or_pos r with rfl | hr
    · exact .inr (.inr (.inr (by simpa using hto)))
    · have hlt := (List.getElem?_eq_some_iff.1 hrun).1
      rcases Nat.lt_or_ge (r + 1) (runsOf qs).length with hmiddle | hlast
      · have hl : l = 1 := by simpa [List.getD_eq_getElem?_getD, hrun] using hsingle r hr hmiddle
        exact .inr (.inl (by omega))
      · exact .inl (by omega)

/-! ## Mode `ABS` (R244) -/

/-- A block with straps `p` whose `OUT` holds `q` at one entry. -/
def blockHolding (p : Straps) (j i : Nat) (q : Word) : State := (State.resetOf p [] [] 0 0).setOutQuality j i q

theorem blockHolding_outQualityAt (p : Straps) (j i : Nat) (q : Word) :
    (blockHolding p j i q).outQualityAt j i = q := by
  rw [blockHolding, setOutQuality_outQualityAt, if_pos ⟨rfl, rfl⟩]

theorem word_ne_add_one (q : Word) : q ≠ q + 1 := by bv_omega

theorem runStart_pos {runs : List (Word × Nat)} (hpos : ∀ x ∈ runs, 1 ≤ x.2) {r : Nat} (hr : 0 < r)
    (hlt : r < runs.length) : 0 < runStart runs r := by
  match runs, r with
  | x :: runs, r + 1 =>
    have := hpos x List.mem_cons_self
    rw [runStart_cons_succ]
    omega

/-- The last entry of a middle run of length 2 or more keeps what it held before. -/
theorem RunsWritten.middle_run_kept {i : Nat} {qs : List Word} {d t : State} (h : RunsWritten i (runsOf qs) 0 d t)
    (hfill : d.straps.fill = .abs) {r l : Nat} {v : Word} (hrun : (runsOf qs)[r]? = some (v, l)) (hr : 0 < r)
    (hmiddle : r + 1 < (runsOf qs).length) (hl : 2 ≤ l) :
    t.outQualityAt (runStart (runsOf qs) r + l - 1) i = d.outQualityAt (runStart (runsOf qs) r + l - 1) i := by
  have hstart := runStart_pos (fun x (hx : x ∈ runsOf qs) => one_le_of_mem_runsOf hx) hr (Nat.lt_of_succ_lt hmiddle)
  rw [h.absFill hfill hrun (by omega) (by omega), if_neg (by omega)]

/-- Settles O43. If every middle run has length 1 all entries are written; and a longer one leaves its last entry, which
comes back wrong on a block that held another word there. -/
theorem absRoundTripCondition : Obligations.AbsRoundTripCondition := by
  intro p qs i hlegal hfill hne hroom
  have hexpand (d : State) (hd : d.straps = p) : ∃ t,
      expandRuns (wireBytes (wireRuns (runsOf qs))) i qs.length qs.length 0 d 0 =
        .ok (t, (wireBytes (wireRuns (runsOf qs))).length) ∧ RunsWritten i (runsOf qs) 0 d t := by
    have h := expandRuns_runsOf (d := d) (hd ▸ hlegal) hne (hd ▸ hroom) [] [] i
    rwa [List.nil_append, List.append_nil, List.length_nil, Nat.zero_add] at h
  constructor
  · intro hback r hr hmiddle
    obtain ⟨v, l, hrun⟩ : ∃ v l, (runsOf qs)[r]? = some (v, l) :=
      ⟨_, _, List.getElem?_eq_getElem (Nat.lt_of_succ_lt hmiddle)⟩
    have hpos : 1 ≤ l := one_le_of_mem_runsOf (List.mem_of_getElem? hrun)
    have hend := runStart_add_le_sum hrun
    rw [sum_runsOf] at hend
    rw [List.getD_eq_getElem?_getD, hrun]
    by_contra hlong
    replace hlong : l ≠ 1 := hlong
    generalize hj : runStart (runsOf qs) r + l - 1 = j
    obtain ⟨t, ht, hwritten⟩ := hexpand (blockHolding p j i (qs.getD j 0 + 1)) rfl
    have hkept := hwritten.middle_run_kept hfill hrun hr hmiddle (by omega)
    rw [hj, blockHolding_outQualityAt, hback _ t _ rfl ht j (by omega)] at hkept
    exact word_ne_add_one _ hkept
  · intro hsingle d t pos hd ht j hj
    obtain ⟨u, hu, hwritten⟩ := hexpand d hd
    cases hu.symm.trans ht
    exact hwritten.outQualityAt_eq (.inr hsingle) hj

/-! ## The quality section (R245) -/

/-- The expander takes back the quality section of channels with `n` quality words each; the expansion of one channel
leaves the others, so each has at the end what its own expansion wrote. -/
theorem expandAll_messageQuality {n : Nat} (qs : Nat → List Word) (hlen : ∀ i, (qs i).length = n) (hpos : 0 < n)
    {is : List Nat} (hd : is.Nodup) (P S : List Byte) {d : State} (hlegal : strapsLegal d.straps = true)
    (hroom : n ≤ d.straps.N) :
    ∃ t, expandAll (P ++ (is.flatMap (fun i => wireBytes (wireRuns (runsOf (qs i)))) ++ S)) n is d P.length =
        .ok (t, P.length + (is.flatMap fun i => wireBytes (wireRuns (runsOf (qs i)))).length) ∧
      (∀ i, i ∉ is → ∀ j, t.outQualityAt j i = d.outQualityAt j i) ∧
      ∀ i ∈ is, d.straps.fill = .cnt ∨ MiddleRunsSingle (runsOf (qs i)) →
        ∀ j, j < n → t.outQualityAt j i = (qs i).getD j 0 := by
  induction is generalizing P d with
  | nil => exact ⟨d, rfl, fun _ _ _ => rfl, fun i hi => absurd hi List.not_mem_nil⟩
  | cons i is ih =>
    obtain ⟨hi, hd⟩ := List.nodup_cons.1 hd
    have hne : qs i ≠ [] := by rw [← List.length_pos_iff, hlen]; exact hpos
    obtain ⟨u, hchannel, hu⟩ := expandRuns_runsOf hlegal hne (by rwa [hlen]) P
      (is.flatMap (fun i => wireBytes (wireRuns (runsOf (qs i)))) ++ S) i
    have hstraps : u.straps = d.straps := by rw [hu.frame]
    obtain ⟨t, hrest, hothers, hback⟩ := ih hd (P ++ wireBytes (wireRuns (runsOf (qs i)))) (d := u)
      (by rwa [hstraps]) (by rwa [hstraps])
    rw [hstraps] at hback
    rw [hlen] at hchannel
    rw [List.append_assoc, List.length_append] at hrest
    refine ⟨t, ?_, fun i' hi' j => ?_, fun i' hi' hcond j hj => ?_⟩
    · rw [List.flatMap_cons, List.append_assoc, expandAll, hchannel, List.length_append, ← Nat.add_assoc]
      exact hrest
    · obtain ⟨hne', hi'⟩ := not_or.1 (mt List.mem_cons.2 hi')
      rw [hothers i' hi', hu.channels j i' hne']
    · rcases List.mem_cons.1 hi' with rfl | hi'
      · rw [hothers i' hi, hu.outQualityAt_eq hcond (by rwa [hlen])]
      · exact hback i' hi' hcond j hj

theorem qualityWords_getD (xs : List Sample) (i : Nat) {j : Nat} (hj : j < xs.length) :
    (qualityWords xs i).getD j 0 = elem (xs.getD j ([], [])).2 i := by
  rw [List.getD_eq_getElem _ _ (by rwa [qualityWords_length]), List.getD_eq_getElem _ _ hj]
  exact List.getElem_map _

/-- Settles O41: what the encoder writes is the wire form of the runs of each channel (`Compressed`), and the expander
takes that back. -/
theorem qualityRoundTrip : Obligations.QualityRoundTrip := by
  intro s d xs P S hlegal hj hne hroom hd bytes
  have hbytes : bytes = messageQuality s.straps xs :=
    ((Compressed.start hj).feed xs).qualitySection_flushRuns hne
  obtain ⟨t, hexpand, -, hback⟩ := expandAll_messageQuality (qualityWords xs) (qualityWords_length xs)
    (List.length_pos_iff.2 hne) (List.nodup_range (n := s.straps.C)) P S (d := d) (hd ▸ hlegal) (hd ▸ hroom)
  rw [← List.append_assoc] at hexpand
  refine ⟨t, by rw [hbytes]; exact hexpand, fun i hi hcond j hjx => ?_⟩
  rw [hback i (List.mem_range.2 hi) (by rwa [hd]) j hjx, qualityWords_getD xs i hjx]

end Sys2Proof.Machine
end

section
/-! PROOFS of the family 45_message_encode.md. Noninterference of the two sides (R260; 46_message_decode.md R290): every
operation of one side commutes with putting that side, the straps and the configuration into another state. -/

namespace Sys2Proof.Machine

/-- Both commands end, with the same response, in states that `R` relates. -/
def EndRelated (R : State → State → Prop) (s s' : State) (o o' : Host.Outcome State Fault Refusal) : Prop :=
  ∃ t t' r, o = .next t ∧ o' = .next t' ∧ R t t' ∧ t.responses = s.responses ++ [r] ∧
    t'.responses = s'.responses ++ [r]

/-- The outcome in one state is known, so the relation says what the other state's is. -/
theorem EndRelated.of_next {R : State → State → Prop} {s s' t : State} {o o' : Host.Outcome State Fault Refusal}
    (h : EndRelated R s s' o o') (ht : o = .next t) :
    ∃ t' r, o' = .next t' ∧ R t t' ∧ t.responses = s.responses ++ [r] ∧ t'.responses = s'.responses ++ [r] := by
  obtain ⟨u, t', r, rfl, rest⟩ := h
  cases ht
  exact ⟨t', r, rest⟩

/-! ## The encode side in another state (45_message_encode.md R260) -/

/-- The state `d` with the straps, the configuration and the encode side of `s`. -/
def encodeSideIn (d s : State) : State :=
  { d with
    straps := s.straps, ctrlXor := s.ctrlXor, sref := s.sref
    estate := s.estate, j := s.j, prev := s.prev, res := s.res, run := s.run, runcnt := s.runcnt
    memEpoch := s.memEpoch }

theorem eq_encodeSideIn {s s' : State} (hstraps : s'.straps = s.straps) (hconfig : SameConfig s s')
    (hside : SameEncodeSide s s') : s' = encodeSideIn s' s := by
  obtain ⟨hxor, hsref⟩ := hconfig
  obtain ⟨hestate, hj, hprev, hres, hrun, hruncnt, hepoch⟩ := hside
  simp only [encodeSideIn, ← hstraps, ← hxor, ← hsref, ← hestate, ← hj, ← hprev, ← hres, ← hrun, ← hruncnt, ← hepoch]

section

variable (d s : State)

theorem setPrev_encodeSideIn (k i : Nat) (v : Word) :
    (encodeSideIn d s).setPrev k i v = encodeSideIn d (s.setPrev k i v) := rfl

theorem setRes_encodeSideIn (i j : Nat) (v : Word) :
    (encodeSideIn d s).setRes i j v = encodeSideIn d (s.setRes i j v) := rfl

theorem setRun_encodeSideIn (i r : Nat) (x : Run) :
    (encodeSideIn d s).setRun i r x = encodeSideIn d (s.setRun i r x) := rfl

theorem setRuncnt_encodeSideIn (i n : Nat) :
    (encodeSideIn d s).setRuncnt i n = encodeSideIn d (s.setRuncnt i n) := rfl

theorem runAt_encodeSideIn (i r : Nat) : (encodeSideIn d s).runAt i r = s.runAt i r := rfl

theorem runcntAt_encodeSideIn (i : Nat) : (encodeSideIn d s).runcntAt i = s.runcntAt i := rfl

theorem spatial_encodeSideIn (v : List Word) (i : Nat) : spatial v (encodeSideIn d s) i = spatial v s i :=
  spatial_congr rfl v i

theorem delta_encodeSideIn (i : Nat) (v : Word) (k : Nat) : delta (encodeSideIn d s) i v k = delta s i v k :=
  delta_congr (s := s) (t := encodeSideIn d s) rfl (fun _ => rfl) v k

theorem residual_encodeSideIn (j i : Nat) (v : Word) : residual (encodeSideIn d s) j i v = residual s j i v :=
  residual_congr (s := s) (t := encodeSideIn d s) rfl (fun _ => rfl) j v

theorem saveDeltas_encodeSideIn (old : State) (i : Nat) (v : Word) (n : Nat) :
    saveDeltas (encodeSideIn d old) i v n (encodeSideIn d s) = encodeSideIn d (saveDeltas old i v n s) := by
  induction n with
  | zero => rfl
  | succ n ih => rw [saveDeltas, ih, delta_encodeSideIn, setPrev_encodeSideIn, saveDeltas]

theorem savePrev_encodeSideIn (j i : Nat) (v : Word) :
    savePrev j i v (encodeSideIn d s) = encodeSideIn d (savePrev j i v s) := by
  rw [savePrev, setPrev_encodeSideIn, saveDeltas_encodeSideIn, savePrev]

theorem predict_encodeSideIn (values : List Word) (j : Nat) (is : List Nat) :
    predict values j is (encodeSideIn d s) =
      (encodeSideIn d (predict values j is s).1, (predict values j is s).2) := by
  induction is generalizing s with
  | nil => rfl
  | cons i is ih =>
    simp only [predict, spatial_encodeSideIn, residual_encodeSideIn, savePrev_encodeSideIn, setRes_encodeSideIn, ih]

theorem pushQuality_encodeSideIn (j i : Nat) (q : Word) :
    pushQuality j i q (encodeSideIn d s) = encodeSideIn d (pushQuality j i q s) := by
  simp only [pushQuality, runAt_encodeSideIn, runcntAt_encodeSideIn, setRun_encodeSideIn, setRuncnt_encodeSideIn,
    apply_ite (encodeSideIn d)]
  rfl

theorem pushAll_encodeSideIn (q : List Word) (j : Nat) (is : List Nat) :
    pushAll q j is (encodeSideIn d s) = encodeSideIn d (pushAll q j is s) := by
  induction is generalizing s with
  | nil => rfl
  | cons i is ih => rw [pushAll, pushQuality_encodeSideIn, ih, pushAll]

theorem takeSample_encodeSideIn (v q : List Word) :
    takeSample v q (encodeSideIn d s) = (encodeSideIn d (takeSample v q s).1, (takeSample v q s).2) := by
  have hstraps : (encodeSideIn d s).straps = s.straps := rfl
  have hj : (encodeSideIn d s).j = s.j := rfl
  simp only [takeSample, hstraps, hj, predict_encodeSideIn, pushAll_encodeSideIn]
  rfl

theorem flushRuns_encodeSideIn (is : List Nat) :
    flushRuns is (encodeSideIn d s) = encodeSideIn d (flushRuns is s) := by
  induction is generalizing s with
  | nil => rfl
  | cons i is ih => exact ih (flushRun i s)

theorem finalise_encodeSideIn :
    finalise (encodeSideIn d s) = (encodeSideIn d (finalise s).1, (finalise s).2) := by
  have hflush := flushRuns_encodeSideIn d (s.setEstate .final) (List.range s.straps.C)
  exact congrArg (fun u => (clearMessage u, s.j, payloadOf u s.j)) hflush

/-- A response to the two states leaves the encode side the same in both. -/
theorem EndRelated.of_encodeSideIn {s u : State} (ws : List Word) (h : u.responses = s.responses) :
    EndRelated SameEncodeSide s d (.next (respond ws u)) (.next (respond ws (encodeSideIn d u))) :=
  ⟨_, _, responsePacket 0x00#8 ws, rfl, rfl, ⟨rfl, rfl, rfl, rfl, rfl, rfl, rfl⟩,
    by rw [respond_responses, h], rfl⟩

theorem exec_esamp_encodeSideIn (v q : List Word) :
    EndRelated SameEncodeSide s d (exec (.esamp v q) s) (exec (.esamp v q) (encodeSideIn d s)) := by
  by_cases hfull : s.j + 1 = s.straps.N
  · rw [exec_esamp_of_eq hfull, exec_esamp_of_eq (s := encodeSideIn d s) hfull, takeSample_encodeSideIn,
      finalise_encodeSideIn]
    exact .of_encodeSideIn d _ (by rw [finalise_responses, takeSample_responses])
  · rw [exec_esamp_of_ne hfull, exec_esamp_of_ne (s := encodeSideIn d s) hfull, takeSample_encodeSideIn]
    exact .of_encodeSideIn d _ (takeSample_responses v q s)

theorem exec_eflush_encodeSideIn :
    EndRelated SameEncodeSide s d (exec .eflush s) (exec .eflush (encodeSideIn d s)) := by
  have hj : (encodeSideIn d s).j = s.j := rfl
  simp only [exec, execEflush, hj, finalise_encodeSideIn]
  split
  · exact ⟨_, _, responsePacket FaultKind.stateViolation.code [0], rfl, rfl, ⟨rfl, rfl, rfl, rfl, rfl, rfl, rfl⟩,
      rfl, rfl⟩
  · exact .of_encodeSideIn d _ (finalise_responses s)

theorem exec_encode_encodeSideIn {i : Instr} (hi : isEncode i = true) :
    EndRelated SameEncodeSide s d (exec i s) (exec i (encodeSideIn d s)) := by
  cases i with
  | esamp v q => exact exec_esamp_encodeSideIn d s v q
  | eflush => exact exec_eflush_encodeSideIn d s
  | ecancel => exact .of_encodeSideIn d (u := clearMessage s) [] rfl
  | _ => cases hi

end

/-! ## The decode side in another state (46_message_decode.md R290) -/

/-- The state `e` with the straps, the configuration and the decode side of `s`. -/
def decodeSideIn (e s : State) : State :=
  { e with
    straps := s.straps, ctrlXor := s.ctrlXor, sref := s.sref
    dsum := s.dsum, outValues := s.outValues, outQuality := s.outQuality, outn := s.outn, outEpoch := s.outEpoch }

theorem eq_decodeSideIn {s s' : State} (hstraps : s'.straps = s.straps) (hconfig : SameConfig s s')
    (hside : SameDecodeSide s s') : s' = decodeSideIn s' s := by
  obtain ⟨hxor, hsref⟩ := hconfig
  obtain ⟨hdsum, hvalues, hquality, houtn, hepoch⟩ := hside
  simp only [decodeSideIn, ← hstraps, ← hxor, ← hsref, ← hdsum, ← hvalues, ← hquality, ← houtn, ← hepoch]

section

variable (e s : State)

theorem straps_decodeSideIn : (decodeSideIn e s).straps = s.straps := rfl

theorem setOutQuality_decodeSideIn (j i : Nat) (q : Word) :
    (decodeSideIn e s).setOutQuality j i q = decodeSideIn e (s.setOutQuality j i q) := rfl

theorem cascade_decodeSideIn (i n : Nat) : cascade i n (decodeSideIn e s) = decodeSideIn e (cascade i n s) := by
  induction n generalizing s with
  | zero => rfl
  | succ n ih => exact ih (s.setDsum n i (oplus s.ctrlXor (s.dsumAt n i) (s.dsumAt (n + 1) i)))

theorem accumulate_decodeSideIn (j i : Nat) (r : Word) :
    accumulate j i r (decodeSideIn e s) = decodeSideIn e (accumulate j i r s) :=
  let top := min j (Config.D - 1) - 1
  cascade_decodeSideIn e (s.setDsum top i (oplus s.ctrlXor (s.dsumAt top i) r)) i top

theorem reconstruct_decodeSideIn (j i : Nat) (r : Word) :
    reconstruct j i r (decodeSideIn e s) = decodeSideIn e (reconstruct j i r s) := by
  simp only [reconstruct, accumulate_decodeSideIn]
  split <;> rfl

theorem fixupAt_decodeSideIn (j i : Nat) : fixupAt j i (decodeSideIn e s) = decodeSideIn e (fixupAt j i s) := by
  have href : hasRef (decodeSideIn e s) i = hasRef s i := rfl
  rw [fixupAt, fixupAt, href, apply_ite (decodeSideIn e)]
  rfl

theorem fixup_decodeSideIn (n : Nat) : fixup n (decodeSideIn e s) = decodeSideIn e (fixup n s) :=
  List.foldl_hom (decodeSideIn e) fun u p => fixupAt_decodeSideIn e u p.1 p.2

theorem fillQuality_decodeSideIn (i : Nat) (q : Word) (js : List Nat) :
    fillQuality i q js (decodeSideIn e s) = decodeSideIn e (fillQuality i q js s) := by
  induction js generalizing s with
  | nil => rfl
  | cons j js ih => exact ih (s.setOutQuality j i q)

/-- The same outcome of a parser, with the decode side it leaves put into `e`. -/
def parsedIn : Except Raised (State × Nat) → Except Raised (State × Nat) :=
  Except.map fun u => (decodeSideIn e u.1, u.2)

theorem rebuildChannel_decodeSideIn (i j : Nat) (zs : List U64) :
    rebuildChannel i j zs (decodeSideIn e s) = (rebuildChannel i j zs s).map (decodeSideIn e) := by
  induction zs generalizing j s with
  | nil => rfl
  | cons z zs ih =>
    rw [rebuildChannel, rebuildChannel, reconstruct_decodeSideIn, ih]
    split <;> rfl

theorem parseS8_decodeSideIn (B : List Byte) (n : Nat) (is : List Nat) (pos : Nat) :
    parseS8 B n is (decodeSideIn e s) pos = parsedIn e (parseS8 B n is s pos) := by
  induction is generalizing s pos with
  | nil => rfl
  | cons i is ih =>
    rw [parseS8, parseS8, straps_decodeSideIn]
    cases s8UnpackUntil s.straps.s8tab B pos n with
    | error f => rfl
    | ok found =>
      simp only [rebuildChannel_decodeSideIn]
      cases rebuildChannel i 0 found.1 s with
      | error f => rfl
      | ok u => exact ih u _

theorem parseVarint_decodeSideIn (B : List Byte) (ps : List (Nat × Nat)) (pos : Nat) :
    parseVarint B ps (decodeSideIn e s) pos = parsedIn e (parseVarint B ps s pos) := by
  induction ps generalizing s pos with
  | nil => rfl
  | cons p ps ih =>
    rw [parseVarint, parseVarint]
    cases svGet B pos with
    | error f => rfl
    | ok found => simp only [reconstruct_decodeSideIn, ih]

theorem parseValues_decodeSideIn (B : List Byte) (n : Nat) :
    parseValues B n (decodeSideIn e s) = parsedIn e (parseValues B n s) := by
  rw [parseValues, parseValues, straps_decodeSideIn, parseS8_decodeSideIn, parseVarint_decodeSideIn,
    apply_ite (parsedIn e)]

theorem expandRuns_decodeSideIn (B : List Byte) (i n fuel cur pos : Nat) :
    expandRuns B i n fuel cur (decodeSideIn e s) pos = parsedIn e (expandRuns B i n fuel cur s pos) := by
  induction fuel generalizing cur s pos with
  | zero => rfl
  | succ fuel ih =>
    rw [expandRuns, expandRuns]
    by_cases hdone : n ≤ cur
    · rw [if_pos hdone, if_pos hdone]
      rfl
    · rw [if_neg hdone, if_neg hdone]
      cases readPair B pos with
      | error f => rfl
      | ok pair =>
        simp only [straps_decodeSideIn, setOutQuality_decodeSideIn, fillQuality_decodeSideIn, ih,
          apply_ite (parsedIn e)]
        rfl

theorem expandAll_decodeSideIn (B : List Byte) (n : Nat) (is : List Nat) (pos : Nat) :
    expandAll B n is (decodeSideIn e s) pos = parsedIn e (expandAll B n is s pos) := by
  induction is generalizing s pos with
  | nil => rfl
  | cons i is ih =>
    rw [expandAll, expandAll, expandRuns_decodeSideIn]
    cases expandRuns B i n n 0 s pos with
    | error f => rfl
    | ok found => exact ih found.1 found.2

/-- What the parser reads and writes is the decode side (46_message_decode.md R290). -/
theorem parsePayload_decodeSideIn (B : List Byte) (n : Nat) :
    parsePayload B n (decodeSideIn e s) = parsedIn e (parsePayload B n s) := by
  rw [parsePayload, parsePayload, parseValues_decodeSideIn]
  cases parseValues B n s with
  | error f => rfl
  | ok found =>
    simp only [parsedIn, Except.map, fixup_decodeSideIn]
    exact expandAll_decodeSideIn e _ B n _ found.2

theorem exec_dpay_decodeSideIn (es : Word) (bytes : List Byte) :
    EndRelated SameDecodeSide s e (exec (.dpay es bytes) s) (exec (.dpay es bytes) (decodeSideIn e s)) := by
  have hparse := parsePayload_decodeSideIn e ((s.setOutn 0).clearDsum) bytes (decodeLength es s)
  have hlength : decodeLength es (decodeSideIn e s) = decodeLength es s := rfl
  have hstart : ((decodeSideIn e s).setOutn 0).clearDsum = decodeSideIn e ((s.setOutn 0).clearDsum) := rfl
  simp only [exec, execDpay, hlength, hstart, hparse]
  split
  · exact ⟨_, _, responsePacket FaultKind.badOperand.code [es], rfl, rfl, ⟨rfl, rfl, rfl, rfl, rfl⟩, rfl, rfl⟩
  · cases hresult : parsePayload bytes (decodeLength es s) ((s.setOutn 0).clearDsum) with
    | error f => exact ⟨_, _, responsePacket f.kind.code [f.info], rfl, rfl, ⟨rfl, rfl, rfl, rfl, rfl⟩, rfl, rfl⟩
    | ok found =>
      obtain ⟨u, pos⟩ := found
      obtain ⟨dsum, values, quality, rfl⟩ := parsePayload_frame _ _ _ _ _ hresult
      exact ⟨_, _, responsePacket 0x00#8 [natWord pos, natWord (decodeLength es s)], rfl, rfl,
        ⟨rfl, rfl, rfl, rfl, rfl⟩, rfl, rfl⟩

theorem exec_rdout_decodeSideIn (j : BitVec 24) :
    EndRelated SameDecodeSide s e (exec (.rdout j) s) (exec (.rdout j) (decodeSideIn e s)) := by
  have houtn : (decodeSideIn e s).outn = s.outn := rfl
  simp only [exec, execRdout, houtn]
  split
  · exact ⟨_, _, responsePacket FaultKind.badOperand.code [argWord j], rfl, rfl, ⟨rfl, rfl, rfl, rfl, rfl⟩, rfl, rfl⟩
  · exact ⟨_, _, responsePacket 0x00#8 (sampleWords s j.toNat), rfl, rfl, ⟨rfl, rfl, rfl, rfl, rfl⟩, rfl, rfl⟩

end

/-- Settles O14: a state that agrees with `s` on one side is that side of `s` put into it, and the commands of a side
commute with that. -/
theorem sidesIgnoreEachOther : Obligations.SidesIgnoreEachOther := by
  intro i s s' t hstraps hconfig hexec
  refine ⟨fun hi hside => ?_, fun hi hside => ?_⟩
  · have halike := exec_encode_encodeSideIn s' s hi
    rw [← eq_encodeSideIn hstraps hconfig hside] at halike
    exact halike.of_next hexec
  · have halike : EndRelated SameDecodeSide s s' (exec i s) (exec i (decodeSideIn s' s)) := by
      rcases hi with hi | ⟨j, rfl⟩
      · cases i with
        | dpay es bytes => exact exec_dpay_decodeSideIn s' s es bytes
        | _ => cases hi
      · exact exec_rdout_decodeSideIn s' s j
    rw [← eq_decodeSideIn hstraps hconfig hside] at halike
    exact halike.of_next hexec

end Sys2Proof.Machine
end

section
/-! PROOFS of the family 45_message_encode.md. What a command can change (00_scope.md R6; 45_ R260, 46_ R290): one side,
or the configuration while idle, and always the response and `FAULTS`. -/

namespace Sys2Proof.Machine

/-! ## The four kinds of change -/

/-- `t` is `s` but for the response and `FAULTS`. -/
def OnlyAnswered (s t : State) : Prop := t = { s with faults := t.faults, responses := t.responses }

/-- `t` is `s` but for the encode side, the response and `FAULTS`. -/
def OnlyEncoded (s t : State) : Prop :=
  t = { s with
    estate := t.estate, j := t.j, prev := t.prev, res := t.res, run := t.run, runcnt := t.runcnt
    faults := t.faults, responses := t.responses }

/-- `t` is `s` but for the decode side, the response and `FAULTS`. -/
def OnlyDecoded (s t : State) : Prop :=
  t = { s with
    dsum := t.dsum, outValues := t.outValues, outQuality := t.outQuality, outn := t.outn, outEpoch := t.outEpoch
    faults := t.faults, responses := t.responses }

/-- `t` is `s` but for the configuration, the response and `FAULTS`. -/
def OnlyConfigured (s t : State) : Prop :=
  t = { s with ctrlXor := t.ctrlXor, sref := t.sref, faults := t.faults, responses := t.responses }

/-- All that the command `i` can do to `s`. -/
inductive Changed (i : Instr) (s t : State) : Prop
  | answered (h : OnlyAnswered s t)
  | encoded (hi : isEncode i = true) (h : OnlyEncoded s t)
  | decoded (hi : isDecode i = true) (h : OnlyDecoded s t)
  | configured (hi : isConfig i = true) (hidle : s.estate = .idle) (h : OnlyConfigured s t)

/-! ## What each command changes -/

section

variable {i : Instr} {s t : State}

theorem AnswersAlike.onlyAnswered (hi : AnswersAlike i s.straps) (h : exec i s = .next t) : OnlyAnswered s t := by
  obtain ⟨r, bits, hexec⟩ := hi
  cases (hexec s rfl).symm.trans h
  rfl

theorem unpackLayout_onlyAnswered {sel : BitVec 4} {data : BitVec 60} (h : unpackLayout sel data s = .next t) :
    OnlyAnswered s t := by
  rw [unpackLayout, answerUnpacked_eq] at h
  split at h <;> cases h <;> rfl

theorem rdcsr_onlyAnswered {addr : BitVec 24} (h : exec (.rdcsr addr) s = .next t) : OnlyAnswered s t := by
  rw [exec, execRdcsr] at h
  split at h <;> cases h <;> rfl

theorem rdout_onlyAnswered {j : BitVec 24} (h : exec (.rdout j) s = .next t) : OnlyAnswered s t := by
  rw [exec, execRdout] at h
  split at h <;> cases h <;> rfl

theorem takeSample_onlyEncoded (v q : List Word) (s : State) : OnlyEncoded s (takeSample v q s).1 := by
  obtain ⟨p, r, u, c, h⟩ := takeSample_frame v q s
  rw [h]
  rfl

theorem finalise_onlyEncoded (s : State) : OnlyEncoded s (finalise s).1 := by
  obtain ⟨u, h⟩ := finalise_frame s
  rw [h]
  rfl

theorem OnlyEncoded.trans {u : State} (h : OnlyEncoded s t) (h' : OnlyEncoded t u) : OnlyEncoded s u := by
  rw [OnlyEncoded] at h'
  rw [h', h]
  rfl

theorem OnlyEncoded.respond (h : OnlyEncoded s t) (ws : List Word) : OnlyEncoded s (respond ws t) := h.trans rfl

theorem esamp_onlyEncoded {v q : List Word} (h : exec (.esamp v q) s = .next t) : OnlyEncoded s t := by
  have htaken := takeSample_onlyEncoded v q s
  by_cases hfull : s.j + 1 = s.straps.N
  · cases (exec_esamp_of_eq hfull v q).symm.trans h
    exact (htaken.trans (finalise_onlyEncoded _)).respond _
  · cases (exec_esamp_of_ne hfull v q).symm.trans h
    exact htaken.respond _

theorem eflush_onlyEncoded (h : exec .eflush s = .next t) : OnlyEncoded s t := by
  simp only [exec, execEflush] at h
  split at h <;> cases h
  · rfl
  · exact (finalise_onlyEncoded s).respond _

theorem ecancel_onlyEncoded (h : exec .ecancel s = .next t) : OnlyEncoded s t := by
  have hclear : OnlyEncoded s (clearMessage s) := rfl
  cases h
  exact hclear.respond []

theorem OnlyDecoded.trans {u : State} (h : OnlyDecoded s t) (h' : OnlyDecoded t u) : OnlyDecoded s u := by
  rw [OnlyDecoded] at h'
  rw [h', h]
  rfl

theorem OnlyDecoded.respond (h : OnlyDecoded s t) (ws : List Word) : OnlyDecoded s (respond ws t) := h.trans rfl

theorem OnlyDecoded.raiseFault (h : OnlyDecoded s t) (f : FaultKind) (info : Word) :
    OnlyDecoded s (raiseFault f info t) := h.trans rfl

theorem decodeAborted_onlyDecoded (s : State) : OnlyDecoded s (decodeAborted s) := rfl

theorem parsePayload_onlyDecoded {B : List Byte} {n pos : Nat} (h : parsePayload B n s = .ok (t, pos)) :
    OnlyDecoded s t := by
  obtain ⟨d, o, q, rfl⟩ := parsePayload_frame _ _ _ _ _ h
  rfl

theorem dpay_onlyDecoded {es : Word} {bytes : List Byte} (h : exec (.dpay es bytes) s = .next t) :
    OnlyDecoded s t := by
  have hstart : OnlyDecoded s ((s.setOutn 0).clearDsum) := rfl
  have hend (u : State) (n : Nat) : OnlyDecoded u ((u.clearDsum).setOutn n) := rfl
  simp only [exec, execDpay] at h
  split at h
  · cases h
    rfl
  · split at h <;> cases h
    case h_1 => exact (decodeAborted_onlyDecoded s).raiseFault _ _
    case h_2 u pos hparse => exact ((hstart.trans (parsePayload_onlyDecoded hparse)).trans (hend u _)).respond _

theorem setxor_changed {b : Bool} (h : exec (.setxor b) s = .next t) : Changed (.setxor b) s t := by
  rw [exec, execSetxor] at h
  split at h <;> cases h
  case isTrue => exact .answered rfl
  case isFalse hidle => exact .configured rfl (not_not.1 hidle) rfl

theorem setsref_changed {k : BitVec 24} {r : Word} (h : exec (.setsref k r) s = .next t) :
    Changed (.setsref k r) s t := by
  rw [exec, execSetsref] at h
  split at h
  case isTrue => cases h; exact .answered rfl
  case isFalse hidle =>
    split at h <;> cases h
    · exact .answered rfl
    · exact .configured rfl (not_not.1 hidle) rfl

/-- All that a command can do. -/
theorem exec_changed (h : exec i s = .next t) : Changed i s t := by
  cases i with
  | setxor b => exact setxor_changed h
  | setsref k r => exact setsref_changed h
  | rdcsr addr => exact .answered (rdcsr_onlyAnswered h)
  | s8pack vs => exact .answered ((s8pack_answersAlike vs _).onlyAnswered h)
  | s8unpk ws => exact .answered ((s8unpk_answersAlike ws _).onlyAnswered h)
  | s8unpkn n ws => exact .answered ((s8unpkn_answersAlike n ws _).onlyAnswered h)
  | esamp v q => exact .encoded rfl (esamp_onlyEncoded h)
  | eflush => exact .encoded rfl (eflush_onlyEncoded h)
  | ecancel => exact .encoded rfl (ecancel_onlyEncoded h)
  | dpay es bytes => exact .decoded rfl (dpay_onlyDecoded h)
  | rdout j => exact .answered (rdout_onlyAnswered h)
  | _ => exact .answered (unpackLayout_onlyAnswered h)

/-! ## What stays (00_scope.md R6) -/

theorem Changed.sameOutside (h : Changed i s t) : SameOutside s t := by
  cases h with
  | answered h | encoded _ h | decoded _ h | configured _ _ h => rw [h]; exact ⟨rfl, rfl⟩

theorem Changed.sameEncodeSide (h : Changed i s t) (hi : isEncode i = false) : SameEncodeSide s t := by
  cases h with
  | encoded hi' _ => rw [hi] at hi'; cases hi'
  | answered h | decoded _ h | configured _ _ h => rw [h]; exact ⟨rfl, rfl, rfl, rfl, rfl, rfl, rfl⟩

theorem Changed.sameDecodeSide (h : Changed i s t) (hi : isDecode i = false) : SameDecodeSide s t := by
  cases h with
  | decoded hi' _ => rw [hi] at hi'; cases hi'
  | answered h | encoded _ h | configured _ _ h => rw [h]; exact ⟨rfl, rfl, rfl, rfl, rfl⟩

theorem Changed.sameConfig (h : Changed i s t) (hi : isConfig i = false ∨ s.estate ≠ .idle) : SameConfig s t := by
  cases h with
  | configured hi' hidle _ =>
    rcases hi with hi | hbusy
    · rw [hi] at hi'; cases hi'
    · exact absurd hidle hbusy
  | answered h | encoded _ h | decoded _ h => rw [h]; exact ⟨rfl, rfl⟩

end

/-- No item of input, reset included, changes the parameters of the block (00_scope.md R8). -/
theorem takeInput_straps {x : Input} {s t : State} (h : takeInput x s = .next t) : t.straps = s.straps := by
  cases x with
  | command e =>
    simp only [takeInput] at h
    split at h
    · exact (exec_changed h).sameOutside.1
    · cases h; rfl
  | reset p | cutShort _ p =>
    obtain ⟨-, rfl⟩ := resetWith_next h
    rfl

theorem step_straps {s t : State} (h : step s = .next t) : t.straps = s.straps := by
  unfold step at h
  split at h
  · split at h
    next => cases h; rfl
    next x rest _ => exact takeInput_straps (s := { s with port := rest }) h
  · cases h

/-- Settles O13, by what each command can change (`exec_changed`), and each item of input for the parameters. -/
theorem sidesStaySeparate : Obligations.SidesStaySeparate := by
  refine ⟨fun i s t h => ?_, fun s t h => step_straps h⟩
  have hchanged := exec_changed h
  exact ⟨hchanged.sameOutside, hchanged.sameEncodeSide, hchanged.sameDecodeSide, hchanged.sameConfig⟩

end Sys2Proof.Machine
end

section
/-! PROOFS of the family 45_message_encode.md. The payload that finalising writes (R263 to R265), in terms of the
residuals and live runs before it, and what finalising leaves (R262). -/

namespace Sys2Proof.Machine

/-! ## The values section (R263, R264) -/

theorem valuesSection_eq_valuesBytes (s : State) (es : Nat) :
    valuesSection s es = valuesBytes s.straps es s.resAt := by
  by_cases hmode : 16 < s.straps.N
  · rw [valuesSection, if_pos (by simpa [s8mode] using hmode), valuesBytes, if_pos hmode]
    rfl
  · rw [valuesSection, if_neg (by simpa [s8mode] using hmode), valuesBytes, if_neg hmode]
    simp only [valuesVarint, places, List.flatMap_assoc, List.flatMap_map, svPut]

/-! ## The quality section (R234, R235) -/

/-- The live runs of a channel as finalising puts them on the wire: the last length is 0. -/
def finalRuns (s : State) (i : Nat) : List (Word × Word) :=
  (List.range (s.runcntAt i)).map fun r =>
    ((s.runAt i r).value, if r + 1 = s.runcntAt i then 0 else (s.runAt i r).len)

theorem payloadFrom_eq (s : State) (es : Nat) :
    payloadFrom s es = valuesBytes s.straps es s.resAt ++ qualityBytes s.straps (finalRuns s) := rfl

theorem runBytes_flushedRun {s : State} {i r : Nat} (hr : r < s.runcntAt i) :
    runBytes (flushedRun s i r) =
      uvPut (s.runAt i r).value ++ uvPut (if r + 1 = s.runcntAt i then 0 else (s.runAt i r).len) := by
  have hlast : r = s.runcntAt i - 1 ↔ r + 1 = s.runcntAt i := by omega
  rw [flushedRun, runBytes]
  simp only [hlast]
  split <;> rfl

theorem wireBytes_finalRuns (s : State) (i : Nat) :
    wireBytes (finalRuns s i) = (List.range (s.runcntAt i)).flatMap fun r => runBytes (flushedRun s i r) := by
  rw [wireBytes, finalRuns, List.flatMap_map]
  exact List.flatMap_congr fun r hr => (runBytes_flushedRun (List.mem_range.1 hr)).symm

/-- The payload that finalising returns is the one of the samples held. -/
theorem finalise_payload_eq_payloadFrom (s : State) : (finalise s).2.2 = payloadFrom s s.j := by
  rw [finalise_payload, payloadFrom_eq, valuesSection_eq_valuesBytes, qualityBytes]
  simp only [wireBytes_finalRuns]

/-! ## What finalising leaves (R262) -/

theorem finalise_finalised (s : State) : Finalised s (finalise s).1 := by
  obtain ⟨u, hframe⟩ := finalise_frame s
  refine ⟨?_, fun k i => ?_, fun i => ?_, fun i r => finalise_runAt s i r⟩ <;> rw [hframe] <;> rfl

theorem exec_eflush_of_ne {s : State} (h : s.j ≠ 0) :
    exec .eflush s = .next (respond (payloadWords s.j (payloadFrom s s.j)) (finalise s).1) := by
  rw [← finalise_payload_eq_payloadFrom]
  exact if_neg h

/-- Settles O45, by the two branches of `EFLUSH`. -/
theorem eflushEffect : Obligations.EflushEffect := by
  refine fun s => ⟨fun hj => ?_, fun hj => ⟨_, finalise_finalised s, ?_⟩⟩
  · rw [exec, execEflush, if_pos hj, raiseFault_eq]
    rfl
  · rw [exec_eflush_of_ne hj, respond_eq]

end Sys2Proof.Machine
end

section
/-! PROOFS of the family 45_message_encode.md. The size of a payload (R269; 44_quality_rle.md R236): each section is a
concatenation of pieces whose lengths lie between two bounds. -/

namespace Sys2Proof.Machine

/-! ## Concatenations -/

section

variable {α β : Type} {l : List α} {f : α → List β} {m : Nat}

theorem length_flatMap_le (h : ∀ a ∈ l, (f a).length ≤ m) : (l.flatMap f).length ≤ l.length * m := by
  rw [List.length_flatMap]
  simpa using List.sum_le_card_nsmul (l.map fun a => (f a).length) m (by simpa using h)

theorem le_length_flatMap (h : ∀ a ∈ l, m ≤ (f a).length) : l.length * m ≤ (l.flatMap f).length := by
  rw [List.length_flatMap]
  simpa using List.card_nsmul_le_sum (l.map fun a => (f a).length) m (by simpa using h)

end

/-! ## The values section (R263, R264) -/

theorem uvPut_length_bounds (x : Word) : 1 ≤ (uvPut x).length ∧ (uvPut x).length ≤ 5 :=
  ⟨uvPutUpTo_length_pos 4 x, (uvPut_length_le_iff 4 x).2 (.inl (Nat.le_refl 4))⟩

theorem packing_channelWords {tab : List (Nat × Nat)} (h : s8tabLegal tab = true) (n : Nat) (r : Nat → Nat → Word)
    (i : Nat) : Packing tab ((List.range n).map fun j => residualSlot (r j i)) (channelWords tab n r i) := by
  refine packing_s8PackWords h _ fun v hv => ?_
  obtain ⟨j, -, rfl⟩ := List.mem_map.1 hv
  exact Nat.lt_trans (residualSlot_lt _) (by decide)

section

variable {p : Straps} {n : Nat} {r : Nat → Nat → Word}

theorem valuesBytes_s8 (hmode : 16 < p.N) :
    valuesBytes p n (fun i j => r j i) = (List.range p.C).flatMap (channelBytes p.s8tab n r) := if_pos hmode

theorem valuesBytes_varint (hmode : p.N ≤ 16) :
    valuesBytes p n (fun i j => r j i) =
      (List.range n).flatMap fun j => (List.range p.C).flatMap fun i => uvPut (zzEnc (r j i)) :=
  if_neg (Nat.not_lt.2 hmode)

/-- Each word holds at least one value. -/
theorem valuesBytes_s8_length_le (h : s8tabLegal p.s8tab = true) (hmode : 16 < p.N) :
    (valuesBytes p n fun i j => r j i).length ≤ 8 * p.C * n := by
  have hchannel : ∀ i ∈ List.range p.C, (channelBytes p.s8tab n r i).length ≤ 8 * n := fun i _ => by
    have hwords := (packing_channelWords h n r i).length_le h
    rw [List.length_map, List.length_range] at hwords
    rw [channelBytes_length]
    omega
  have hall := length_flatMap_le hchannel
  rw [List.length_range] at hall
  rw [valuesBytes_s8 hmode]
  linarith

/-- Each word holds at most 240 values of the default table (R168). -/
theorem le_valuesBytes_s8_length (htab : p.s8tab = s8tabDefault) (hmode : 16 < p.N) :
    8 * p.C * ((n + 239) / 240) ≤ (valuesBytes p n fun i j => r j i).length := by
  have hchannel : ∀ i ∈ List.range p.C, 8 * ((n + 239) / 240) ≤ (channelBytes p.s8tab n r i).length := fun i _ => by
    have hwords := (packing_channelWords s8tabDefault_legal n r i).le_length
    rw [List.length_map, List.length_range] at hwords
    rw [htab, channelBytes_length]
    omega
  have hall := le_length_flatMap hchannel
  rw [List.length_range] at hall
  rw [valuesBytes_s8 hmode]
  linarith

theorem valuesBytes_varint_length_bounds (hmode : p.N ≤ 16) :
    p.C * n ≤ (valuesBytes p n fun i j => r j i).length ∧
      (valuesBytes p n fun i j => r j i).length ≤ 5 * p.C * n := by
  have hleast (j : Nat) := le_length_flatMap (l := List.range p.C) fun i _ => (uvPut_length_bounds (zzEnc (r j i))).1
  have hmost (j : Nat) := length_flatMap_le (l := List.range p.C) fun i _ => (uvPut_length_bounds (zzEnc (r j i))).2
  have hall := le_length_flatMap (l := List.range n) fun j _ => hleast j
  have hall' := length_flatMap_le (l := List.range n) fun j _ => hmost j
  simp only [List.length_range] at hall hall'
  rw [valuesBytes_varint hmode]
  constructor <;> linarith

end

/-! ## The quality section (44_quality_rle.md R234 to R236) -/

theorem wireRuns_length (runs : List (Word × Nat)) : (wireRuns runs).length = runs.length := by
  rcases List.eq_nil_or_concat' runs with rfl | ⟨R, ⟨v, l⟩, rfl⟩
  · rfl
  · rw [wireRuns_append_singleton, List.length_append, List.length_append, List.length_map]
    rfl

theorem wireBytes_length_bounds (runs : List (Word × Word)) :
    runs.length * 2 ≤ (wireBytes runs).length ∧ (wireBytes runs).length ≤ runs.length * 10 := by
  have hpair (x : Word × Word) : 2 ≤ (uvPut x.1 ++ uvPut x.2).length ∧ (uvPut x.1 ++ uvPut x.2).length ≤ 10 := by
    have hvalue := uvPut_length_bounds x.1
    have hlength := uvPut_length_bounds x.2
    rw [List.length_append]
    omega
  exact ⟨le_length_flatMap fun x _ => (hpair x).1, length_flatMap_le fun x _ => (hpair x).2⟩

theorem runsOf_length_le (qs : List Word) : (runsOf qs).length ≤ qs.length := by
  rw [← sum_runsOf qs]
  exact length_le_sum_runs fun x hx => one_le_of_mem_runsOf hx

/-- A channel has at least one run, and at most one for each sample. -/
theorem channel_length_bounds {qs : List Word} (hne : qs ≠ []) :
    2 ≤ (wireBytes (wireRuns (runsOf qs))).length ∧
      (wireBytes (wireRuns (runsOf qs))).length ≤ qs.length * 10 := by
  have hbytes := wireBytes_length_bounds (wireRuns (runsOf qs))
  have hpos : 0 < (runsOf qs).length := List.length_pos_iff.2 (runsOf_ne_nil hne)
  have hmost := runsOf_length_le qs
  rw [wireRuns_length] at hbytes
  omega

theorem messageQuality_length_bounds (p : Straps) {xs : List Sample} (hne : xs ≠ []) :
    2 * p.C ≤ (messageQuality p xs).length ∧ (messageQuality p xs).length ≤ 10 * p.C * xs.length := by
  have hchannel (i : Nat) := channel_length_bounds (qualityWords_ne_nil hne i)
  simp only [qualityWords_length] at hchannel
  have hleast := le_length_flatMap (l := List.range p.C) fun i _ => (hchannel i).1
  have hmost := length_flatMap_le (l := List.range p.C) fun i _ => (hchannel i).2
  rw [List.length_range] at hleast hmost
  rw [messageQuality, qualityBytes]
  constructor <;> linarith

/-! ## The payload (R269) -/

/-- The limits of 00_scope.md R9 leave room for 18 bytes a channel and sample. -/
theorem eighteen_mul_lt_of_strapsLegal {p : Straps} (h : strapsLegal p = true) {n : Nat} (hn : n ≤ p.N) :
    18 * p.C * n < 2 ^ 24 := by
  simp only [strapsLegal, countsLegal, Bool.and_eq_true, decide_eq_true_eq] at h
  have hmono : 18 * p.C * n ≤ 18 * p.C * p.N := Nat.mul_le_mul_left _ hn
  omega

/-- Settles O49: at most 8 bytes a value in either mode, and at most 10 bytes of quality a channel and sample. -/
theorem payloadSizeBounds : Obligations.PayloadSizeBounds := by
  intro p xor ref xs hlegal hne hroom values quality es
  have htab : s8tabLegal p.s8tab = true := (Bool.and_eq_true _ _ ▸ hlegal).2
  have hs8 : 16 < p.N → values ≤ 8 * p.C * es :=
    valuesBytes_s8_length_le (r := residualAt xor ref xs) htab
  have hvarint : p.N ≤ 16 → p.C * es ≤ values ∧ values ≤ 5 * p.C * es :=
    valuesBytes_varint_length_bounds (r := residualAt xor ref xs)
  obtain ⟨hleast, hmost⟩ : 2 * p.C ≤ quality ∧ quality ≤ 10 * p.C * es := messageQuality_length_bounds p hne
  have hvalues : values ≤ 8 * p.C * es := by
    rcases Nat.lt_or_ge 16 p.N with hmode | hmode
    · exact hs8 hmode
    · have hmost := (hvarint hmode).2
      linarith [Nat.zero_le (p.C * es)]
  have hpayload : (messagePayload p xor ref xs).length ≤ 18 * p.C * es := by
    have hsum : (messagePayload p xor ref xs).length = values + quality := List.length_append
    linarith
  exact ⟨fun hmode => ⟨hs8 hmode, fun hdefault => le_valuesBytes_s8_length (r := residualAt xor ref xs) hdefault hmode⟩,
    hvarint, hleast, hmost, hpayload, Nat.lt_of_le_of_lt hpayload (eighteen_mul_lt_of_strapsLegal hlegal hroom)⟩

end Sys2Proof.Machine
end

section
/-! PROOFS of the family 45_message_encode.md. A whole message (R262 to R265): `PREV`, `RES` and the run vectors hold
what the samples taken so far determine, so finalising writes the payload of the samples. -/

namespace Sys2Proof.Machine

/-! ## The payload that a state holds -/

theorem valuesBytes_congr {p : Straps} {n : Nat} {r r' : Nat → Nat → Word}
    (h : ∀ i, i < p.C → ∀ j, j < n → r i j = r' i j) : valuesBytes p n r = valuesBytes p n r' := by
  rw [valuesBytes, valuesBytes]
  split
  · refine List.flatMap_congr fun i hi => ?_
    rw [List.map_congr_left fun j hj => by rw [h i (List.mem_range.1 hi) j (List.mem_range.1 hj)]]
  · exact List.flatMap_congr fun j hj => List.flatMap_congr fun i hi => by
      rw [h i (List.mem_range.1 hi) j (List.mem_range.1 hj)]

/-- Where the live runs of a channel are the runs of its quality words, finalising puts their wire form in the
payload. -/
theorem wireBytes_finalRuns_of_liveRuns {s : State} {i : Nat} {qs : List Word} (hne : qs ≠ [])
    (hlive : liveRuns s i = (runsOf qs).map storedRun) :
    wireBytes (finalRuns s i) = wireBytes (wireRuns (runsOf qs)) := by
  rw [← channelQuality_flushRuns List.mem_cons_self hne hlive (is := [i]), channelQuality, wireBytes_finalRuns]
  refine List.flatMap_congr fun r _ => ?_
  rw [flushRuns_runAt, flushedRun]
  simp only [List.mem_singleton, true_and]

theorem Compressed.qualityBytes_finalRuns {p : Straps} {xs : List Sample} {t : State} (h : Compressed p xs t)
    (hne : xs ≠ []) : qualityBytes p (finalRuns t) = messageQuality p xs :=
  List.flatMap_congr fun i hi =>
    wireBytes_finalRuns_of_liveRuns (qualityWords_ne_nil hne i) (h.runs hne i (List.mem_range.1 hi))

/-! ## A message under way -/

/-- `t` is where a message stands that began in `s` and has taken the first `n` of the samples `xs`. -/
structure SamplesTaken (s : State) (xs : List Sample) (n : Nat) (t : State) : Prop where
  predicted : Predicted s (reduced s.srefAt xs) n t
  compressed : Compressed s.straps (xs.take n) t
  residuals : ∀ i, i < s.straps.C → ∀ j, j < n →
    t.resAt i j = closedResidual s.ctrlXor (reduced s.srefAt xs i) j
  decode : SameDecodeSide s t
  faults : t.faults = s.faults

theorem SamplesTaken.start {s : State} (h : s.j = 0) (xs : List Sample) : SamplesTaken s xs 0 s where
  predicted := .start h _
  compressed := .start h
  residuals _ _ j hj := absurd hj (Nat.not_lt_zero j)
  decode := ⟨rfl, rfl, rfl, rfl, rfl⟩
  faults := rfl

section

variable {s t : State} {xs : List Sample} {n : Nat} (h : SamplesTaken s xs n t)

include h

theorem SamplesTaken.respond (ws : List Word) : SamplesTaken s xs n (respond ws t) :=
  ⟨h.predicted.respond ws, h.compressed.respond ws, h.residuals, h.decode, h.faults⟩

/-- One more sample (R261). -/
theorem SamplesTaken.next (hn : n < xs.length) : SamplesTaken s xs (n + 1) (takeSample xs[n].1 xs[n].2 t).1 := by
  have hvalue (i : Nat) : spatialOf s.srefAt xs[n].1 i = reduced s.srefAt xs i n := by
    rw [reduced, List.getD_eq_getElem _ _ hn]
  obtain ⟨p, r, u, c, hframe⟩ := takeSample_frame xs[n].1 xs[n].2 t
  refine ⟨h.predicted.next hvalue, ?_, fun i hi j hj => ?_, ?_, ?_⟩
  · rw [← List.take_concat_get' _ _ hn]
    exact h.compressed.next xs[n]
  · rw [takeSample_resAt, h.predicted.straps, h.predicted.count, h.predicted.spatial_eq, hvalue]
    rcases Nat.lt_or_eq_of_le (Nat.le_of_lt_succ hj) with hbefore | rfl
    · rw [if_neg (fun e => Nat.ne_of_gt hbefore e.2), h.residuals i hi j hbefore]
    · rw [if_pos ⟨hi, rfl⟩, h.predicted.residual_eq hi]
  · rw [hframe]
    exact h.decode
  · rw [hframe]
    exact h.faults

/-- The payload of the samples taken (R262 to R265). -/
theorem SamplesTaken.payloadFrom_eq (hn : n = xs.length) (hne : xs ≠ []) :
    payloadFrom t t.j = messagePayload s.straps s.ctrlXor s.srefAt xs := by
  have hquality := h.compressed.qualityBytes_finalRuns (by rwa [hn, List.take_length])
  rw [hn, List.take_length] at hquality
  rw [Machine.payloadFrom_eq, h.predicted.straps, h.predicted.count, hquality, messagePayload, messageValues, hn]
  congr 1
  exact valuesBytes_congr fun i hi j hj => h.residuals i hi j (hn ▸ hj)

end

/-! ## A message that is done (R262) -/

/-- `t` is where a message that began in `s` leaves the block. -/
structure MessageDone (s t : State) : Prop where
  count : t.j = 0
  idle : t.estate = .idle
  layers : ∀ k i, t.prevAt k i = 0
  counts : ∀ i, t.runcntAt i = 0
  config : SameConfig s t
  decode : SameDecodeSide s t
  faults : t.faults = s.faults

theorem SamplesTaken.messageDone {s t : State} {xs : List Sample} {n : Nat} (h : SamplesTaken s xs n t)
    (ws : List Word) : MessageDone s (Machine.respond ws (finalise t).1) := by
  obtain ⟨u, hframe⟩ := finalise_frame t
  rw [hframe]
  exact ⟨rfl, rfl, fun _ _ => rfl, fun _ => rfl, ⟨h.predicted.mode, h.predicted.refs⟩, h.decode, h.faults⟩

/-! ## The commands of a message -/

theorem execAll_append {is : List Instr} {s t : State} (h : execAll is s = .next t) (js : List Instr) :
    execAll (is ++ js) s = execAll js t := by
  induction is generalizing s with
  | nil => cases h; rfl
  | cons i is ih =>
    rw [execAll] at h
    split at h
    next u hexec => rw [List.cons_append, execAll_cons hexec]; exact ih h
    all_goals cases h

theorem execAll_singleton {i : Instr} {s t : State} (h : exec i s = .next t) : execAll [i] s = .next t :=
  execAll_cons h []

/-- `ESAMP` of the first `n` samples, where they leave the message unfinished. -/
theorem execAll_esamp_samplesTaken {s : State} {xs : List Sample} (hj : s.j = 0) {n : Nat} (hn : n ≤ xs.length)
    (hroom : n < s.straps.N) :
    ∃ t before, execAll ((xs.take n).map Sample.esamp) s = .next t ∧ SamplesTaken s xs n t ∧
      t.responses = s.responses ++ before := by
  induction n with
  | zero => exact ⟨s, [], rfl, .start hj xs, by rw [List.append_nil]⟩
  | succ n ih =>
    obtain ⟨t, before, hall, ht, hresponses⟩ := ih (by omega) (by omega)
    have hexec : exec xs[n].esamp t = _ :=
      exec_esamp_of_ne (by rw [ht.predicted.count, ht.predicted.straps]; omega) xs[n].1 xs[n].2
    rw [← List.take_concat_get' _ _ hn, List.map_append]
    exact ⟨_, _, (execAll_append hall _).trans (execAll_singleton hexec), (ht.next hn).respond _,
      by rw [respond_responses, takeSample_responses, hresponses, List.append_assoc]⟩

/-- What the last command of a message answers and leaves: `ahead`, the count and the payload. -/
def AnswersMessage (s : State) (xs : List Sample) (ahead : List Word) (t : State) : Prop :=
  MessageDone s t ∧ ∃ before, t.responses = s.responses ++ before ++ [responsePacket 0x00#8
    (ahead ++ payloadWords xs.length (messagePayload s.straps s.ctrlXor s.srefAt xs))]

theorem SamplesTaken.answersMessage {s t : State} {xs : List Sample} (h : SamplesTaken s xs xs.length t) (hne : xs ≠ [])
    {before : List Packet} (hresponses : t.responses = s.responses ++ before) (ahead : List Word) :
    AnswersMessage s xs ahead
      (Machine.respond (ahead ++ payloadWords t.j (payloadFrom t t.j)) (finalise t).1) := by
  refine ⟨h.messageDone _, before, ?_⟩
  rw [respond_responses, finalise_responses, hresponses, h.payloadFrom_eq rfl hne, h.predicted.count]

/-- A message of fewer than `N` samples ends with `EFLUSH` (R266). -/
theorem execAll_encodeMessage_of_lt {s : State} {xs : List Sample} (hj : s.j = 0) (hne : xs ≠ [])
    (hroom : xs.length < s.straps.N) :
    ∃ t, execAll (encodeMessage s.straps.N xs) s = .next t ∧ AnswersMessage s xs [] t := by
  obtain ⟨t, before, hall, ht, hresponses⟩ := execAll_esamp_samplesTaken hj (Nat.le_refl xs.length) hroom
  have hpos : t.j ≠ 0 := by
    rw [ht.predicted.count]
    exact mt List.length_eq_zero_iff.1 hne
  rw [List.take_length] at hall
  refine ⟨_, ?_, ht.answersMessage hne hresponses []⟩
  rw [encodeMessage, if_pos hroom]
  exact (execAll_append hall _).trans (execAll_singleton (exec_eflush_of_ne hpos))

/-- A message of `N` samples ends with the `ESAMP` that fills it (R261). -/
theorem execAll_encodeMessage_of_eq {s : State} {xs : List Sample} (hj : s.j = 0) (hne : xs ≠ [])
    (hfull : xs.length = s.straps.N) :
    ∃ t ahead, execAll (encodeMessage s.straps.N xs) s = .next t ∧ AnswersMessage s xs ahead t ∧
      ahead.length = s.straps.C + 1 := by
  obtain ⟨n, hn⟩ : ∃ n, xs.length = n + 1 := Nat.exists_eq_succ_of_ne_zero (mt List.length_eq_zero_iff.1 hne)
  have hlt : n < xs.length := by omega
  obtain ⟨t, before, hall, ht, hresponses⟩ := execAll_esamp_samplesTaken hj (Nat.le_of_lt hlt) (by omega)
  have hnext := ht.next hlt
  rw [← hn] at hnext
  have hexec : exec xs[n].esamp t = _ :=
    exec_esamp_of_eq (by rw [ht.predicted.count, ht.predicted.straps]; omega) xs[n].1 xs[n].2
  rw [finalise_payload_eq_payloadFrom] at hexec
  refine ⟨_, (takeSample xs[n].1 xs[n].2 t).2 ++ [1#32], ?_,
    hnext.answersMessage hne ((takeSample_responses _ _ t).trans hresponses) _, ?_⟩
  · have hlist : xs = xs.take n ++ [xs[n]] := by
      rw [List.take_concat_get' _ _ hlt, ← hn, List.take_length]
    rw [encodeMessage, if_neg (by omega), List.append_nil, List.append_assoc]
    conv_lhs => rw [hlist, List.map_append]
    exact (execAll_append hall _).trans (execAll_singleton hexec)
  · rw [List.length_append, takeSample_residuals, List.length_map, List.length_range, ht.predicted.straps]
    rfl

/-- Settles O48: the last command finalises a state that holds what the samples determine (`SamplesTaken`). -/
theorem messagePayloadFromSamples : Obligations.MessagePayloadFromSamples := by
  intro s xs _ hj hne hroom
  obtain ⟨t, ahead, hexec, ⟨hdone, before, hresponses⟩, hahead⟩ :
      ∃ t ahead, execAll (encodeMessage s.straps.N xs) s = .next t ∧ AnswersMessage s xs ahead t ∧
        ahead.length = if xs.length = s.straps.N then s.straps.C + 1 else 0 := by
    rcases Nat.lt_or_eq_of_le hroom with hlt | hfull
    · obtain ⟨t, hexec, hanswer⟩ := execAll_encodeMessage_of_lt hj hne hlt
      exact ⟨t, [], hexec, hanswer, (if_neg (Nat.ne_of_lt hlt)).symm⟩
    · obtain ⟨t, ahead, hexec, hanswer, hlength⟩ := execAll_encodeMessage_of_eq hj hne hfull
      exact ⟨t, ahead, hexec, hanswer, by rw [if_pos hfull, hlength]⟩
  refine ⟨t, before, ahead, hexec, ?_, hahead, hdone.count, hdone.idle, hdone.layers, fun i _ => hdone.counts i,
    hdone.config, hdone.decode, hdone.faults⟩
  rw [hresponses, responsePacket, List.length_append]
  rfl

end Sys2Proof.Machine
end

section
/-! PROOFS of the family 46_message_decode.md. The outcomes of `DPAY` (R291) in terms of the parser, and the round trip
of a whole message through `ESAMP`, `EFLUSH` and `DPAY` (R300). -/

namespace Sys2Proof.Machine

/-! ## `DPAY` from what the parser returns (R291) -/

/-- The state the parser starts in. -/
def decodeStart (s : State) : State := (s.setOutn 0).clearDsum

@[simp] theorem decodeStart_straps (s : State) : (decodeStart s).straps = s.straps := rfl

theorem exec_dpay_of_pos {es : Word} (hes : 0 < es.toInt) (bytes : List Byte) (s : State) :
    exec (.dpay es bytes) s = match parsePayload bytes (min es.toNat s.straps.N) (decodeStart s) with
      | .error f => .next (raiseFault f.kind f.info (decodeAborted s))
      | .ok (u, pos) => .next (respond [natWord pos, natWord (min es.toNat s.straps.N)]
          ((u.clearDsum).setOutn (min es.toNat s.straps.N))) := by
  rw [exec, execDpay, if_neg (Int.not_le.2 hes)]
  rfl

section

variable {es : Word} {bytes : List Byte} {s : State}

theorem exec_dpay_of_parse_ok (hes : 0 < es.toInt) {u : State} {pos : Nat}
    (h : parsePayload bytes (min es.toNat s.straps.N) (decodeStart s) = .ok (u, pos)) :
    exec (.dpay es bytes) s = .next (respond [natWord pos, natWord (min es.toNat s.straps.N)]
      ((u.clearDsum).setOutn (min es.toNat s.straps.N))) := by
  rw [exec_dpay_of_pos hes, h]

/-- A data fault leaves what 60_exceptions.md R364 says. -/
theorem dpayAborts_of_parse_error (hes : 0 < es.toInt) {f : Raised}
    (h : parsePayload bytes (min es.toNat s.straps.N) (decodeStart s) = .error f) :
    DpayAborts es bytes s f.kind.code.toNat f.info := by
  have hexec : exec (.dpay es bytes) s = .next (answersFault f.kind.code.toNat f.info (decodeAborted s)) := by
    rw [exec_dpay_of_pos hes, h, ← raiseFault_eq]
  exact ⟨_, hexec, rfl, fun _ _ => rfl, rfl, rfl, ⟨rfl, rfl⟩, ⟨rfl, rfl, rfl, rfl, rfl, rfl, rfl⟩, rfl, rfl⟩

end

/-! ## The round trip (R300) -/

theorem flatMap_range_ite {α : Type} (l : List α) (c i : Nat) :
    (List.range c).flatMap (fun k => if k = i then l else []) = if i < c then l else [] := by
  induction c with
  | zero => rfl
  | succ c ih =>
    rw [List.range_succ, List.flatMap_append, ih, List.flatMap_singleton]
    rcases Nat.lt_trichotomy i c with hlt | rfl | hgt
    · rw [if_pos hlt, if_neg (Nat.ne_of_gt hlt), if_pos (Nat.lt_succ_of_lt hlt), List.append_nil]
    · rw [if_neg (Nat.lt_irrefl i), if_pos rfl, if_pos (Nat.lt_succ_self i), List.nil_append]
    · rw [if_neg (Nat.lt_asymm hgt), if_neg (Nat.ne_of_lt hgt), if_neg (by omega), List.nil_append]

/-- The order channel by channel is one that R210 allows. -/
theorem legalOrder_channels (n c : Nat) : LegalOrder n c ((List.range c).flatMap (channelPlaces n)) := by
  refine ⟨fun p hp => ?_, fun i hi => ?_⟩
  · obtain ⟨i, hi, hp⟩ := List.mem_flatMap.1 hp
    obtain ⟨j, -, rfl⟩ := List.mem_map.1 hp
    exact List.mem_range.1 hi
  · have hchannel (i' : Nat) : ((channelPlaces n i').filter fun p => p.2 == i).map Prod.fst =
        if i' = i then List.range n else [] := by
      rw [channelPlaces, List.filter_map, Function.comp_def]
      by_cases h : i' = i <;> simp [h, Function.comp_def]
    rw [List.filter_flatMap, List.map_flatMap]
    simp only [hchannel]
    rw [flatMap_range_ite, if_pos hi]

/-- Both orders in which the parser visits the places are ones that R210 allows. -/
theorem legalOrder_parseOrder (p : Straps) (n : Nat) : LegalOrder n p.C (parseOrder p n) := by
  rw [parseOrder]
  split
  · exact legalOrder_channels n p.C
  · exact legalOrder_places n p.C

/-- `t` holds the samples `xs` in `OUT`: every value, and the quality of the channels whose runs the fill mode brings
back (44_quality_rle.md R244). -/
def HoldsSamples (xs : List Sample) (t : State) : Prop :=
  ∀ i, i < t.straps.C → ∀ j, j < xs.length →
    t.outValueAt j i = elem (xs.getD j ([], [])).1 i ∧
    (t.straps.fill = .cnt ∨ MiddleRunsSingle (runsOf (qualityWords xs i)) →
      t.outQualityAt j i = elem (xs.getD j ([], [])).2 i)

/-- The parser on the payload of a message and any bytes after it: values and fixup give the values back
(`predictor_outValues`), the expander the quality (`expandAll_messageQuality`), and neither writes the other's part. -/
theorem parsePayload_holdsSamples {s : State} (h : strapsLegal s.straps = true) (hlegal : SpatialLegal s)
    (hdsum : ∀ k i, s.dsumAt k i = 0) {xs : List Sample} (hne : xs ≠ []) (hroom : xs.length ≤ s.straps.N)
    (S : List Byte) :
    ∃ t, parsePayload (messagePayload s.straps s.ctrlXor s.srefAt xs ++ S) xs.length s =
        .ok (t, (messagePayload s.straps s.ctrlXor s.srefAt xs).length) ∧ HoldsSamples xs t := by
  have htable : s8tabLegal s.straps.s8tab = true := (Bool.and_eq_true _ _ ▸ h).2
  have hvalues := parseValues_valuesBytes xs.length (residualAt s.ctrlXor s.srefAt xs)
    (messageQuality s.straps xs ++ S) htable
  change parseValues (messageValues s.straps s.ctrlXor s.srefAt xs ++ _) _ _ =
    .ok (_, (messageValues s.straps s.ctrlXor s.srefAt xs).length) at hvalues
  generalize hu : fixup xs.length (rebuild (residualAt s.ctrlXor s.srefAt xs) (parseOrder s.straps xs.length) s) = u
  have hstraps : u.straps = s.straps := by
    obtain ⟨o, hframe⟩ := fixup_frame xs.length
      (rebuild (residualAt s.ctrlXor s.srefAt xs) (parseOrder s.straps xs.length) s)
    rw [← hu, hframe]
    exact rebuild_straps _ _ _
  obtain ⟨t, hquality, -, hback⟩ := expandAll_messageQuality (qualityWords xs) (qualityWords_length xs)
    (List.length_pos_iff.2 hne) (List.nodup_range (n := s.straps.C)) (messageValues s.straps s.ctrlXor s.srefAt xs) S
    (d := u) (by rwa [hstraps]) (by rwa [hstraps])
  obtain ⟨q, hframe⟩ := expandAll_frame _ _ _ _ _ _ _ hquality
  have htstraps : t.straps = s.straps := by rw [hframe, hstraps]
  refine ⟨t, ?_, fun i hi j hj => ⟨?_, fun hcond => ?_⟩⟩
  · rw [messagePayload, List.append_assoc, parsePayload, hvalues, List.length_append]
    simp only [hu]
    exact hquality
  · have hvalue : t.outValueAt j i = u.outValueAt j i := by rw [hframe]; rfl
    rw [hvalue, ← hu]
    exact (predictor_outValues hlegal hdsum (legalOrder_parseOrder s.straps xs.length) hj (htstraps ▸ hi)).2.1
  · rw [htstraps, ← hstraps] at hcond
    rw [htstraps] at hi
    rw [hback i (List.mem_range.2 hi) hcond j hj, qualityWords_getD xs i hj]

/-- A sample count that the block has room for is a positive `es` with its own value. -/
theorem sampleCount_word {p : Straps} (h : strapsLegal p = true) {n : Nat} (hpos : 0 < n) (hroom : n ≤ p.N) :
    0 < (natWord n).toInt ∧ (natWord n).toNat = n := by
  have hN := N_lt_of_strapsLegal h
  have hn : (natWord n).toNat = n := natWord_toNat (by omega)
  refine ⟨?_, hn⟩
  rw [BitVec.toInt_eq_toNat_of_lt (by omega), hn]
  omega

/-- `DPAY` of the payload of a message and any bytes after it (R297, R300). -/
theorem exec_dpay_holdsSamples {d : State} (h : strapsLegal d.straps = true) (hlegal : SpatialLegal d)
    {xs : List Sample} (hne : xs ≠ []) (hroom : xs.length ≤ d.straps.N) (S : List Byte) :
    let payload := messagePayload d.straps d.ctrlXor d.srefAt xs
    ∃ u, exec (.dpay (natWord xs.length) (payload ++ S)) d = .next u ∧
      u.responses = d.responses ++ [[0#32, 2#32, natWord payload.length, natWord xs.length]] ∧
      u.outn = xs.length ∧ u.faults = d.faults ∧ u.straps = d.straps ∧ HoldsSamples xs u := by
  obtain ⟨hes, hn⟩ := sampleCount_word h (List.length_pos_iff.2 hne) hroom
  obtain ⟨t, hparse, hholds⟩ := parsePayload_holdsSamples (s := decodeStart d) h hlegal (fun _ _ => rfl) hne hroom S
  obtain ⟨ds, o, q, hframe⟩ := parsePayload_frame _ _ _ _ _ hparse
  have hlen : min (natWord xs.length).toNat d.straps.N = xs.length := by rw [hn, Nat.min_eq_left hroom]
  have hexec := exec_dpay_of_parse_ok (es := natWord xs.length) hes (hlen.symm ▸ hparse)
  rw [hlen] at hexec
  refine ⟨_, hexec, ?_, rfl, ?_, ?_, hholds⟩ <;> rw [hframe] <;> rfl

/-- Settles O57: the payload is the one of the samples (`messagePayloadFromSamples`), and `DPAY` takes it back. -/
theorem messageRoundTrip : Obligations.MessageRoundTrip := by
  intro e d xs S hstraps hj hne hroom _ hsame hconfig hlegal
  obtain ⟨hxor, hsref⟩ := hconfig
  obtain ⟨t, before, ahead, hencode, hresponses, -⟩ := messagePayloadFromSamples e xs hstraps hj hne hroom
  have hrefs : e.srefAt = d.srefAt := by funext i; simp only [State.srefAt, hsref]
  rw [← hsame] at hstraps hroom
  obtain ⟨u, hdecode, hanswer, houtn, hfaults, hkept, hholds⟩ := exec_dpay_holdsSamples hstraps hlegal hne hroom S
  rw [hsame, hxor, ← hrefs] at hdecode hanswer
  refine ⟨t, u, before, ahead, _, hencode, hresponses, hdecode, hanswer, houtn, hfaults, ?_⟩
  rwa [HoldsSamples, hkept, hsame] at hholds

end Sys2Proof.Machine
end

section
/-! PROOFS of the family 46_message_decode.md. Bytes after those the parser consumed do not matter (R297): what a reader
answers depends on the bytes up to where it ends, and so does what a sequence of readers answers. -/

namespace Sys2Proof.Machine

/-- `read` takes `B` from `pos` to `pos'`, and answers the same for all bytes that agree with `B` up to there. -/
structure ReadsTo {α : Type} (read : List Byte → Except Raised α) (B : List Byte) (pos pos' : Nat) : Prop where
  forward : pos ≤ pos'
  inside : pos' ≤ B.length
  alike : ∀ B' : List Byte, B'.take pos' = B.take pos' → read B' = read B

theorem ReadsTo.refl {α : Type} (x : Except Raised α) {B : List Byte} {pos : Nat} (h : pos ≤ B.length) :
    ReadsTo (fun _ => x) B pos pos := ⟨Nat.le_refl pos, h, fun _ _ => rfl⟩

theorem take_eq_take_of_le {B B' : List Byte} {m n : Nat} (hmn : m ≤ n) (h : B'.take n = B.take n) :
    B'.take m = B.take m := by
  rw [← Nat.min_eq_left hmn, ← List.take_take, h, List.take_take]

/-- One reader after another: the whole answers alike where both do. -/
theorem ReadsTo.seq {α β γ : Type} {first : List Byte → Except Raised α} {second : List Byte → Except Raised β}
    {whole : List Byte → Except Raised γ} {B : List Byte} {pos mid pos' : Nat} (h₁ : ReadsTo first B pos mid)
    (h₂ : ReadsTo second B mid pos')
    (hwhole : ∀ B', first B' = first B → second B' = second B → whole B' = whole B) :
    ReadsTo whole B pos pos' :=
  ⟨Nat.le_trans h₁.forward h₂.forward, h₂.inside, fun B' hB' =>
    hwhole B' (h₁.alike B' (take_eq_take_of_le h₂.forward hB')) (h₂.alike B' hB')⟩

/-- A reader of the bytes from `pos` on that used `used` of them. -/
theorem ReadsTo.of_drop {α : Type} {read : List Byte → Except Raised α} {B : List Byte} {pos used : Nat}
    (hused : used ≤ (B.drop pos).length) (hpos : pos ≤ B.length)
    (halike : ∀ L, L.take used = (B.drop pos).take used → read L = read (B.drop pos)) :
    ReadsTo (fun B => read (B.drop pos)) B pos (pos + used) := by
  rw [List.length_drop] at hused
  refine ⟨Nat.le_add_right _ _, by omega, fun B' hB' => halike _ ?_⟩
  rw [List.take_drop, List.take_drop, hB']

/-! ## LEB128 fields (41_zigzag_varint.md R144) -/

theorem uvGetFrom_alike {pos k used : Nat} {x v : Word} {L : List Byte} (h : uvGetFrom pos k x L = .ok (v, used)) :
    k < used ∧ used ≤ k + L.length ∧
      ∀ L' : List Byte, L'.take (used - k) = L.take (used - k) → uvGetFrom pos k x L' = uvGetFrom pos k x L := by
  induction L generalizing k x with
  | nil => cases h
  | cons b rest ih =>
    have hhead (m : Nat) {L' : List Byte} (hL' : L'.take (m + 1) = (b :: rest).take (m + 1)) :
        ∃ rest', L' = b :: rest' ∧ rest'.take m = rest.take m := by
      cases L' with
      | nil => cases hL'
      | cons b' rest' =>
        obtain ⟨rfl, hrest⟩ := List.cons.inj hL'
        exact ⟨rest', rfl, hrest⟩
    have hturn := h
    rw [uvGetFrom] at hturn
    split at hturn
    next => cases hturn
    next hbits =>
      simp only at hturn
      split at hturn
      next hlast =>
        cases hturn
        refine ⟨Nat.lt_succ_self k, by simp, fun L' hL' => ?_⟩
        rw [Nat.add_sub_cancel_left] at hL'
        obtain ⟨rest', rfl, -⟩ := hhead 0 hL'
        rw [uvGetFrom, uvGetFrom, if_neg hbits, if_neg hbits, if_pos hlast, if_pos hlast]
      next hmore =>
        obtain ⟨hk, hlen, halike⟩ := ih hturn
        refine ⟨Nat.lt_of_succ_lt hk, by rw [List.length_cons]; omega, fun L' hL' => ?_⟩
        obtain ⟨m, hm⟩ : ∃ m, used - k = m + 1 := ⟨used - k - 1, by omega⟩
        rw [hm] at hL'
        obtain ⟨rest', rfl, hrest⟩ := hhead m hL'
        rw [uvGetFrom, uvGetFrom, if_neg hbits, if_neg hbits, if_neg hmore, if_neg hmore]
        exact halike rest' (by rwa [show used - (k + 1) = m by omega])

theorem uvGet_readsTo {B : List Byte} {pos used : Nat} {v : Word} (h : uvGet B pos = .ok (v, used)) :
    ReadsTo (fun B => uvGet B pos) B pos (pos + used) := by
  obtain ⟨hused, hlen, halike⟩ := uvGetFrom_alike h
  rw [Nat.zero_add] at hlen
  have hpos : pos ≤ B.length := by rw [List.length_drop] at hlen; omega
  exact .of_drop hlen hpos halike

theorem svGet_eq_ok {B : List Byte} {pos used : Nat} {r : Word} (h : svGet B pos = .ok (r, used)) :
    ∃ u, uvGet B pos = .ok (u, used) := by
  rw [svGet] at h
  split at h
  next u _ hread => cases h; exact ⟨u, hread⟩
  next => cases h

theorem svGet_readsTo {B : List Byte} {pos used : Nat} {r : Word} (h : svGet B pos = .ok (r, used)) :
    ReadsTo (fun B => svGet B pos) B pos (pos + used) := by
  obtain ⟨u, hread⟩ := svGet_eq_ok h
  have hfield := uvGet_readsTo hread
  refine ⟨hfield.forward, hfield.inside, fun B' hB' => ?_⟩
  have halike : uvGet B' pos = uvGet B pos := hfield.alike B' hB'
  simp only [svGet, halike]

/-! ## Simple8b words (42_simple8b.md R169) -/

theorem s8UntilFrom_alike {tab : List (Nat × Nat)} {L : List Byte} {pos n used : Nat} {vs : List U64}
    (h : s8UntilFrom tab L pos n = .ok (vs, used)) :
    8 * used ≤ L.length ∧ ∀ L' : List Byte, L'.take (8 * used) = L.take (8 * used) →
      s8UntilFrom tab L' pos n = s8UntilFrom tab L pos n := by
  fun_induction s8UntilFrom tab L pos n generalizing vs used with
  | case1 | case4 =>
    cases h
    exact ⟨Nat.zero_le _, fun L' _ => s8UntilFrom_zero tab L' _⟩
  | case2 b0 b1 b2 b3 b4 b5 b6 b7 rest pos n hn words more count hrest =>
    rename_i ih
    cases h
    obtain ⟨hlen, halike⟩ := ih hrest
    refine ⟨by simp only [List.length_cons]; omega, fun L' hL' => ?_⟩
    have hword : L' = b0 :: b1 :: b2 :: b3 :: b4 :: b5 :: b6 :: b7 :: L'.drop 8 := by
      have hfirst := take_eq_take_of_le (m := 8) (by omega) hL'
      conv_lhs => rw [← List.take_append_drop 8 L', hfirst]
      rfl
    have hafter : (L'.drop 8).take (8 * count) = rest.take (8 * count) := by
      have hdropped := congrArg (List.drop 8) hL'
      rw [show 8 * (count + 1) = 8 + 8 * count by omega, ← List.take_drop, ← List.take_drop] at hdropped
      exact hdropped
    rw [hword, s8UntilFrom, if_neg hn]
    simp only [words] at halike hrest ⊢
    simp only [halike _ hafter, hrest]
  | case3 | case5 => cases h

theorem s8UnpackUntil_readsTo {tab : List (Nat × Nat)} {B : List Byte} {pos n used : Nat} {vs : List U64}
    (h : s8UnpackUntil tab B pos n = .ok (vs, used)) (hpos : pos ≤ B.length) :
    ReadsTo (fun B => s8UnpackUntil tab B pos n) B pos (pos + 8 * used) := by
  obtain ⟨hlen, halike⟩ := s8UntilFrom_alike h
  exact .of_drop (read := fun L => s8UntilFrom tab L pos n) hlen hpos halike

/-! ## The values section (R292, R293) -/

theorem parseS8_readsTo {B : List Byte} {n : Nat} {is : List Nat} {s t : State} {pos pos' : Nat}
    (h : parseS8 B n is s pos = .ok (t, pos')) (hpos : pos ≤ B.length) :
    ReadsTo (fun B => parseS8 B n is s pos) B pos pos' := by
  induction is generalizing s pos with
  | nil => cases h; exact .refl _ hpos
  | cons i is ih =>
    rw [parseS8] at h
    split at h
    next => cases h
    next zs used hread =>
      split at h
      next => cases h
      next u hchannel =>
        have hfirst := s8UnpackUntil_readsTo hread hpos
        refine hfirst.seq (ih h hfirst.inside) fun B' hsame hrest => ?_
        simp only [parseS8, hsame, hread, hchannel, hrest]

theorem parseVarint_readsTo {B : List Byte} {ps : List (Nat × Nat)} {s t : State} {pos pos' : Nat}
    (h : parseVarint B ps s pos = .ok (t, pos')) (hpos : pos ≤ B.length) :
    ReadsTo (fun B => parseVarint B ps s pos) B pos pos' := by
  induction ps generalizing s pos with
  | nil => cases h; exact .refl _ hpos
  | cons p ps ih =>
    rw [parseVarint] at h
    split at h
    next => cases h
    next r used hread =>
      have hfirst := svGet_readsTo hread
      refine hfirst.seq (ih h hfirst.inside) fun B' hsame hrest => ?_
      simp only [parseVarint, hsame, hread, hrest]

theorem parseValues_readsTo {B : List Byte} {n : Nat} {s t : State} {pos' : Nat}
    (h : parseValues B n s = .ok (t, pos')) : ReadsTo (fun B => parseValues B n s) B 0 pos' := by
  unfold parseValues at h ⊢
  split at h
  next hmode => simpa only [if_pos hmode] using parseS8_readsTo h (Nat.zero_le _)
  next hmode => simpa only [if_neg hmode] using parseVarint_readsTo h (Nat.zero_le _)

/-! ## The quality section (44_quality_rle.md R240) -/

theorem readPair_readsTo {B : List Byte} {pos pos' : Nat} {v l : Word} (h : readPair B pos = .ok (v, l, pos')) :
    ReadsTo (fun B => readPair B pos) B pos pos' := by
  rw [readPair] at h
  split at h
  next => cases h
  next value u₁ hvalue =>
    split at h
    next => cases h
    next length u₂ hlength =>
      cases h
      refine (uvGet_readsTo hvalue).seq (uvGet_readsTo hlength) fun B' hsame hrest => ?_
      simp only [readPair, hsame, hvalue, hrest]

theorem expandRuns_readsTo {B : List Byte} {i n fuel cur : Nat} {s t : State} {pos pos' : Nat}
    (h : expandRuns B i n fuel cur s pos = .ok (t, pos')) (hpos : pos ≤ B.length) :
    ReadsTo (fun B => expandRuns B i n fuel cur s pos) B pos pos' := by
  induction fuel generalizing cur s pos with
  | zero => cases h; exact .refl _ hpos
  | succ fuel ih =>
    rw [expandRuns] at h
    split at h
    next hdone =>
      cases h
      simp only [expandRuns_of_le hdone]
      exact .refl _ hpos
    next hcur =>
      split at h
      next => cases h
      next v l mid hread =>
        split at h
        next => cases h
        next hl =>
          have hfirst := readPair_readsTo hread
          refine hfirst.seq (ih h hfirst.inside) fun B' hsame hrest => ?_
          simp only [expandRuns, if_neg hcur, hsame, hread, if_neg hl, hrest]

theorem expandAll_readsTo {B : List Byte} {n : Nat} {is : List Nat} {s t : State} {pos pos' : Nat}
    (h : expandAll B n is s pos = .ok (t, pos')) (hpos : pos ≤ B.length) :
    ReadsTo (fun B => expandAll B n is s pos) B pos pos' := by
  induction is generalizing s pos with
  | nil => cases h; exact .refl _ hpos
  | cons i is ih =>
    rw [expandAll] at h
    split at h
    next => cases h
    next u mid hread =>
      have hfirst := expandRuns_readsTo hread hpos
      refine hfirst.seq (ih h hfirst.inside) fun B' hsame hrest => ?_
      simp only [expandAll, hsame, hread, hrest]

/-! ## The payload -/

/-- The parser reads the bytes up to where it ends, and no others (R297). -/
theorem parsePayload_readsTo {B : List Byte} {n : Nat} {s t : State} {pos' : Nat}
    (h : parsePayload B n s = .ok (t, pos')) : ReadsTo (fun B => parsePayload B n s) B 0 pos' := by
  rw [parsePayload] at h
  split at h
  next => cases h
  next u mid hvalues =>
    have hfirst := parseValues_readsTo hvalues
    refine hfirst.seq (expandAll_readsTo h hfirst.inside) fun B' hsame hrest => ?_
    simp only [parsePayload, hsame, hvalues, hrest]

/-- A response `OK` of `DPAY` tells that the payload was parsed, and where the parser ended. -/
theorem parsePayload_of_exec_dpay {es : Word} {bytes : List Byte} {s t : State} {consumed n : Nat}
    (hconsumed : consumed ≤ bytes.length) (hbytes : bytes.length < 2 ^ 32) (h : exec (.dpay es bytes) s = .next t)
    (hanswer : t.responses = s.responses ++ [[0#32, 2#32, natWord consumed, natWord n]]) :
    0 < es.toInt ∧ ∃ u, parsePayload bytes (min es.toNat s.straps.N) (decodeStart s) = .ok (u, consumed) := by
  have hfault {f : FaultKind} {info : Word} {u : State} (hu : u.responses = s.responses)
      (he : raiseFault f info u = t) : False := by
    rw [← he, raiseFault_responses, hu, List.append_cancel_left_eq] at hanswer
    exact statusWord_fault_ne_zero f (List.cons.inj (List.cons.inj hanswer).1).1
  rcases lt_or_ge 0 es.toInt with hes | hes
  · rw [exec_dpay_of_pos hes] at h
    refine ⟨hes, ?_⟩
    split at h
    next f _ => exact (hfault (u := decodeAborted s) rfl (Host.Outcome.next.inj h)).elim
    next u pos hparse =>
      have hpos : pos ≤ bytes.length := (parsePayload_readsTo hparse).inside
      obtain ⟨d, o, q, hframe⟩ := parsePayload_frame _ _ _ _ _ hparse
      cases h
      have hu : u.responses = s.responses := by rw [hframe]; rfl
      simp only [respond_responses, setOutn_responses, clearDsum_responses, hu, List.append_cancel_left_eq,
        responsePacket, List.cons.injEq, and_true] at hanswer
      obtain ⟨-, -, hword, -⟩ := hanswer
      have hcount := congrArg BitVec.toNat hword
      rw [natWord_toNat (by omega), natWord_toNat (by omega)] at hcount
      exact ⟨u, hcount ▸ hparse⟩
  · rw [exec, execDpay, if_pos hes] at h
    exact (hfault rfl (Host.Outcome.next.inj h)).elim

/-- Settles O54: the bytes consumed stay, so the parser ends as before. -/
theorem trailingBytesIgnored : Obligations.TrailingBytesIgnored := by
  intro es bytes S s t consumed n hconsumed hbytes h hanswer
  obtain ⟨hes, u, hparse⟩ := parsePayload_of_exec_dpay hconsumed hbytes h hanswer
  have hsame : (bytes.take consumed ++ S).take consumed = bytes.take consumed :=
    List.take_left' (List.length_take_of_le hconsumed)
  have halike := (parsePayload_readsTo hparse).alike _ hsame
  rw [← h, exec_dpay_of_pos hes, exec_dpay_of_pos hes, halike]

end Sys2Proof.Machine
end

section
/-! PROOFS of the family 46_message_decode.md. The faults of the values section (R292, R293) with their info words: where
the parser stands after the channels or fields before, and what the reader of the next one answers. -/

namespace Sys2Proof.Machine

/-! ## Simple8b words (42_simple8b.md R169) -/

section

variable {tab : List (Nat × Nat)} {n : Nat} {ws : List U64} {tail : List Byte} (pos : Nat)

/-- Words that hold `n` values are read, and the first `n` values taken. -/
theorem s8UntilFrom_of_le (h : n ≤ (ws.flatMap (s8UnpackWord tab)).length) :
    ∃ used, s8UntilFrom tab (ws.flatMap toBe64 ++ tail) pos n = .ok ((ws.flatMap (s8UnpackWord tab)).take n, used) := by
  induction ws generalizing n pos with
  | nil =>
    obtain rfl := Nat.le_zero.1 h
    exact ⟨0, s8UntilFrom_zero tab _ pos⟩
  | cons w ws ih =>
    rcases Nat.eq_zero_or_pos n with rfl | hn
    · exact ⟨0, by rw [List.take_zero, s8UntilFrom_zero]⟩
    · rw [List.flatMap_cons, List.length_append] at h
      obtain ⟨used, hrest⟩ := ih (pos + 8) (n := n - (s8UnpackWord tab w).length) (by omega)
      refine ⟨used + 1, ?_⟩
      rw [List.flatMap_cons, List.append_assoc, s8UntilFrom_toBe64 (Nat.ne_of_gt hn) hrest, List.flatMap_cons,
        List.take_append]

/-- Words that hold fewer: the position of the missing word, whatever the slots hold. -/
theorem s8UntilFrom_of_lt (htail : tail.length < 8) (h : (ws.flatMap (s8UnpackWord tab)).length < n) :
    s8UntilFrom tab (ws.flatMap toBe64 ++ tail) pos n =
      .error ⟨.truncatedInput, natWord (pos + 8 * ws.length)⟩ := by
  induction ws generalizing n pos with
  | nil =>
    rw [List.flatMap_nil, List.nil_append, List.length_nil, Nat.mul_zero, Nat.add_zero]
    unfold s8UntilFrom
    split
    next => simp only [List.length_cons] at htail; omega
    next => exact if_neg (Nat.ne_of_gt (Nat.zero_lt_of_lt h))
  | cons w ws ih =>
    rw [List.flatMap_cons, List.length_append] at h
    have hrest := ih (pos + 8) (n := n - (s8UnpackWord tab w).length) (by omega)
    rw [List.flatMap_cons, List.append_assoc, toBe64]
    simp only [List.cons_append, List.nil_append, s8UntilFrom, be64_toBe64, hrest, if_neg (show n ≠ 0 by omega)]
    rw [List.length_cons, show pos + 8 + 8 * ws.length = pos + 8 * (ws.length + 1) by omega]

end

/-! ## The slots of a channel (R292) -/

/-- Slots below 2^32 are all taken. -/
theorem exists_rebuildChannel_ok (i : Nat) {zs : List U64} (h : ∀ z ∈ zs, z.toNat < 2 ^ 32) (j : Nat) (s : State) :
    ∃ t, rebuildChannel i j zs s = .ok t := by
  induction zs generalizing j s with
  | nil => exact ⟨s, rfl⟩
  | cons z zs ih =>
    obtain ⟨hz, hzs⟩ := List.forall_mem_cons.1 h
    rw [rebuildChannel, if_neg (Nat.not_le.2 hz)]
    exact ih hzs _ _

/-- The first slot of 2^32 or more faults. -/
theorem rebuildChannel_of_first (i : Nat) {us zs : List U64} {z : U64} (hus : ∀ y ∈ us, y.toNat < 2 ^ 32)
    (hz : 2 ^ 32 ≤ z.toNat) (j : Nat) (s : State) :
    rebuildChannel i j (us ++ z :: zs) s = .error ⟨.rangeFault, z.setWidth 32⟩ := by
  induction us generalizing j s with
  | nil => rw [List.nil_append, rebuildChannel, if_pos hz]
  | cons u us ih =>
    obtain ⟨hu, hus⟩ := List.forall_mem_cons.1 hus
    rw [List.cons_append, rebuildChannel, if_neg (Nat.not_le.2 hu), ih hus]

/-! ## The channels before (R292) -/

theorem parseS8_append (B : List Byte) (n : Nat) (is js : List Nat) (s : State) (pos : Nat) :
    parseS8 B n (is ++ js) s pos =
      (parseS8 B n is s pos).bind fun found => parseS8 B n js found.1 found.2 := by
  induction is generalizing s pos with
  | nil => rfl
  | cons i is ih =>
    rw [List.cons_append, parseS8, parseS8]
    cases s8UnpackUntil s.straps.s8tab B pos n with
    | error f => rfl
    | ok read =>
      simp only
      cases rebuildChannel i 0 read.1 s with
      | error f => rfl
      | ok u => exact ih u _

theorem parseS8_straps {B : List Byte} {n : Nat} {is : List Nat} {s t : State} {pos pos' : Nat}
    (h : parseS8 B n is s pos = .ok (t, pos')) : t.straps = s.straps := by
  obtain ⟨d, o, hframe⟩ := parseS8_frame _ _ _ _ _ _ _ h
  rw [hframe]

/-- Where `channelsEnd` says that the first `k` channels end, the parser comes to. -/
theorem parseS8_of_channelsEnd {B : List Byte} {n k pos : Nat} (s : State)
    (h : channelsEnd s.straps.s8tab B n k = some pos) : ∃ t, parseS8 B n (List.range k) s 0 = .ok (t, pos) := by
  induction k generalizing pos with
  | zero => cases h; exact ⟨s, rfl⟩
  | succ k ih =>
    rw [channelsEnd] at h
    split at h
    next => cases h
    next mid hbefore =>
      split at h
      next zs used hread =>
        obtain ⟨u, hu⟩ := ih hbefore
        split at h
        next hslots =>
          cases h
          obtain ⟨t, ht⟩ := exists_rebuildChannel_ok k (by simpa using hslots) 0 u
          refine ⟨t, ?_⟩
          rw [List.range_succ, parseS8_append, hu]
          simp only [Except.bind, parseS8, parseS8_straps hu, hread, ht]
        next => cases h
      next => cases h

theorem take_append_cons_drop {α : Type} {l : List α} {k : Nat} (hk : k < l.length) :
    l = l.take k ++ l[k] :: l.drop (k + 1) := by
  rw [← List.drop_eq_getElem_cons hk, List.take_append_drop]

theorem s8mode_iff (p : Straps) : s8mode p = true ↔ 16 < p.N := decide_eq_true_iff

section

variable {es : Word} {bytes : List Byte} {s : State}

/-- A fault of the values section ends `DPAY`. -/
theorem dpayAborts_of_values_error (hes : 0 < es.toInt) {f : Raised}
    (h : parseValues bytes (min es.toNat s.straps.N) (decodeStart s) = .error f) :
    DpayAborts es bytes s f.kind.code.toNat f.info :=
  dpayAborts_of_parse_error hes (by rw [parsePayload, h])

/-- A fault of the channel after those that were read. -/
theorem dpayAborts_of_channel_error (hes : 0 < es.toInt) (hmode : 16 < s.straps.N) {i pos : Nat}
    (hi : i < s.straps.C) (hbefore : channelsEnd s.straps.s8tab bytes (min es.toNat s.straps.N) i = some pos)
    {f : Raised}
    (h : ∀ u is, u.straps = s.straps → parseS8 bytes (min es.toNat s.straps.N) (i :: is) u pos = .error f) :
    DpayAborts es bytes s f.kind.code.toNat f.info := by
  obtain ⟨u, hu⟩ := parseS8_of_channelsEnd (decodeStart s) hbefore
  have hsplit : List.range s.straps.C = List.range i ++ i :: (List.range s.straps.C).drop (i + 1) := by
    have hlen : i < (List.range s.straps.C).length := by rwa [List.length_range]
    conv_lhs => rw [take_append_cons_drop hlen]
    rw [List.take_range, Nat.min_eq_left (Nat.le_of_lt hi), List.getElem_range]
  refine dpayAborts_of_values_error hes ?_
  rw [parseValues, decodeStart_straps, if_pos ((s8mode_iff _).2 hmode), hsplit, parseS8_append, hu]
  exact h u _ ((parseS8_straps hu).trans (decodeStart_straps s))

end

theorem setWidth_eq_ofNat (z : U64) : z.setWidth 32 = BitVec.ofNat 32 z.toNat := by
  apply BitVec.eq_of_toNat_eq
  rw [BitVec.toNat_setWidth, BitVec.toNat_ofNat]

/-- Settles O52: the parser comes to the channel (`parseS8_of_channelsEnd`); its words are too few (`s8UntilFrom_of_lt`),
or enough (`s8UntilFrom_of_le`) and the first slot out of range faults (`rebuildChannel_of_first`). -/
theorem dpaySlotFaults : Obligations.DpaySlotFaults := by
  intro es bytes tail s i pos ws hes hmode hi n vs hbefore hbytes
  refine ⟨fun htail hfew => ?_, fun q z hmany hq hz hover hfirst => ?_⟩
  · have hread : s8UnpackUntil s.straps.s8tab bytes pos n =
        .error ⟨.truncatedInput, natWord (pos + 8 * ws.length)⟩ := by
      rw [s8UnpackUntil, hbytes]
      exact s8UntilFrom_of_lt pos htail hfew
    refine dpayAborts_of_channel_error (f := ⟨.truncatedInput, natWord (pos + 8 * ws.length)⟩) hes hmode hi hbefore
      fun u is hu => ?_
    rw [parseS8, hu, hread]
  · obtain ⟨used, hread⟩ := s8UntilFrom_of_le (tab := s.straps.s8tab) (tail := tail) pos hmany
    rw [← hbytes, ← s8UnpackUntil] at hread
    replace hread : s8UnpackUntil s.straps.s8tab bytes pos n = .ok (vs.take n, used) := hread
    obtain ⟨hlen, rfl⟩ := List.getElem?_eq_some_iff.1 hz
    have hsplit : vs.take n = vs.take q ++ vs[q] :: (vs.take n).drop (q + 1) := by
      have hqn : q < (vs.take n).length := by rw [List.length_take]; omega
      conv_lhs => rw [take_append_cons_drop hqn]
      rw [List.take_take, Nat.min_eq_left (Nat.le_of_lt hq), List.getElem_take]
    have hsmall : ∀ y ∈ vs.take q, y.toNat < 2 ^ 32 := fun y hy => by
      obtain ⟨p, hp, rfl⟩ := List.mem_take_iff_getElem.1 hy
      exact hfirst p _ (by omega) (List.getElem?_eq_getElem _)
    rw [← setWidth_eq_ofNat]
    refine dpayAborts_of_channel_error (f := ⟨.rangeFault, vs[q].setWidth 32⟩) hes hmode hi hbefore fun u is hu => ?_
    rw [parseS8, hu, hread]
    simp only
    rw [hsplit, rebuildChannel_of_first i hsmall hover]

end Sys2Proof.Machine
end

section
/-! PROOFS of the family 46_message_decode.md. The faults of the LEB128 fields of a payload (R293, R295) with their info
words: in varint mode the parser comes to the field that `fieldsEnd` names, in the quality section to the pair that
`pairAt` names, and the reader faults there. -/

namespace Sys2Proof.Machine

/-! ## One field (41_zigzag_varint.md R144) -/

/-- What follows from a fault of the field at `pos` holds for both kinds of fault. -/
theorem fieldFaults {B : List Byte} {pos : Nat} {P : Raised → Prop} (h : ∀ f, uvGet B pos = .error f → P f) :
    (FieldCut B pos → P ⟨.truncatedInput, natWord pos⟩) ∧ (FieldOverlong B pos → P ⟨.overflow, natWord pos⟩) := by
  obtain ⟨-, hcut, hover⟩ := varintReadOutcomes B pos
  refine ⟨fun ⟨k, hk, hend, hmore⟩ => h _ (hcut k hk hend hmore),
    fun ⟨hlen, hmore, hlast⟩ => h _ (hover hlen hmore hlast)⟩

/-! ## The fields of the values section (R293) -/

theorem parseVarint_append (B : List Byte) (ps qs : List (Nat × Nat)) (s : State) (pos : Nat) :
    parseVarint B (ps ++ qs) s pos =
      (parseVarint B ps s pos).bind fun found => parseVarint B qs found.1 found.2 := by
  induction ps generalizing s pos with
  | nil => rfl
  | cons p ps ih =>
    rw [List.cons_append, parseVarint, parseVarint]
    cases svGet B pos with
    | error f => rfl
    | ok read => exact ih _ _

theorem places_length (n c : Nat) : (places n c).length = n * c := by
  simp [places, List.length_flatMap]

section

variable {es : Word} {bytes : List Byte} {s : State}

/-- A fault of the field after those that were read, in varint mode. -/
theorem dpayAborts_of_field_error (hes : 0 < es.toInt) (hmode : s.straps.N ≤ 16) {k pos : Nat}
    (hk : k < min es.toNat s.straps.N * s.straps.C) (hbefore : fieldsEnd bytes k 0 = some pos) {f : Raised}
    (h : uvGet bytes pos = .error f) : DpayAborts es bytes s f.kind.code.toNat f.info := by
  rw [← places_length] at hk
  have hlen : ((places (min es.toNat s.straps.N) s.straps.C).take k).length = k :=
    List.length_take_of_le (Nat.le_of_lt hk)
  obtain ⟨u, hu⟩ := (parseVarint_ok_iff bytes _ (decodeStart s) 0 pos).2 (hlen.symm ▸ hbefore)
  refine dpayAborts_of_values_error hes ?_
  rw [parseValues, decodeStart_straps, if_neg (mt (s8mode_iff _).1 (Nat.not_lt.2 hmode)), take_append_cons_drop hk,
    parseVarint_append, hu]
  simp only [Except.bind, parseVarint, svGet, h]

end

/-! ## Where the quality section begins (R292, R293) -/

theorem parseValues_of_valuesEnd {B : List Byte} {n start : Nat} (s : State) (h : valuesEnd s.straps B n = some start) :
    ∃ t, parseValues B n s = .ok (t, start) ∧ t.straps = s.straps := by
  have hparse : ∃ t, parseValues B n s = .ok (t, start) := by
    unfold valuesEnd at h
    split at h
    next hmode =>
      obtain ⟨t, ht⟩ := parseS8_of_channelsEnd s h
      exact ⟨t, by rw [parseValues, if_pos ((s8mode_iff _).2 hmode), ht]⟩
    next hmode =>
      rw [← places_length] at h
      obtain ⟨t, ht⟩ := (parseVarint_ok_iff B _ s 0 start).2 h
      exact ⟨t, by rw [parseValues, if_neg (mt (s8mode_iff _).1 hmode), ht]⟩
  obtain ⟨t, ht⟩ := hparse
  obtain ⟨d, o, hframe⟩ := parseValues_frame _ _ _ _ _ ht
  exact ⟨t, ht, by rw [hframe]⟩

/-! ## The pairs of the quality section (44_quality_rle.md R240, R242) -/

/-- The expander from a place on: the rest of channel `i`, of at most `fuel` pairs, and the channels after it. -/
def expandFrom (B : List Byte) (n c fuel : Nat) (place : Nat × Nat × Nat) (s : State) : Except Raised (State × Nat) :=
  (expandRuns B place.1 n fuel place.2.1 s place.2.2).bind fun found =>
    expandAll B n ((List.range c).drop (place.1 + 1)) found.1 found.2

/-- The channels from `i` on are expanded from the cursor 0 of channel `i`. -/
theorem expandAll_drop {B : List Byte} {n c i : Nat} (hi : i < c) (s : State) (pos : Nat) :
    expandAll B n ((List.range c).drop i) s pos = expandFrom B n c n (i, 0, pos) s := by
  rw [List.drop_eq_getElem_cons (by rwa [List.length_range]), List.getElem_range, expandAll, expandFrom]
  cases expandRuns B i n n 0 s pos <;> rfl

/-- The pair at `pos` faults with `f`: it cannot be read, or its length is above `N` (R240, R243). -/
def PairFault (N : Nat) (B : List Byte) (pos : Nat) (f : Raised) : Prop :=
  readPair B pos = .error f ∨ ∃ v l pos', readPair B pos = .ok (v, l, pos') ∧ N < l.toNat ∧ f = ⟨.rangeFault, l⟩

/-- A fault of a pair that is reached is a fault of the expander. -/
theorem expandFrom_of_pair_error {B : List Byte} {n c fuel i cur pos : Nat} {s : State} (hcur : cur < n)
    (hfuel : n ≤ cur + fuel) {f : Raised} (h : PairFault s.straps.N B pos f) :
    expandFrom B n c fuel (i, cur, pos) s = .error f := by
  obtain ⟨fuel, rfl⟩ := Nat.exists_eq_succ_of_ne_zero (show fuel ≠ 0 by omega)
  rw [expandFrom, expandRuns, if_neg (Nat.not_le.2 hcur)]
  rcases h with hread | ⟨v, l, pos', hread, hl, rfl⟩
  · rw [hread]; rfl
  · rw [hread]
    simp only [if_pos hl]
    rfl

/-- The channels come in order. -/
theorem channel_le_of_pairAt {N n : Nat} {B : List Byte} {k : Nat} {place place' : Nat × Nat × Nat}
    (h : pairAt N n B k place = some place') : place.1 ≤ place'.1 := by
  fun_induction pairAt N n B k place with
  | case1 => cases h; exact Nat.le_refl _
  | case2 | case3 => cases h
  | case4 _ _ _ _ _ _ _ _ _ _ ih => exact Nat.le_of_succ_le (ih h)
  | case5 _ _ _ _ _ _ _ _ _ _ ih => exact ih h

/-- What the expander has left to do at a place is what it has left to do `k` pairs later, with what those pairs
write: `t` has the straps of `s`, and the fuel of the channel suffices. -/
theorem expandFrom_pairAt {B : List Byte} {n c : Nat} (hn : 0 < n) {k fuel : Nat} {place place' : Nat × Nat × Nat}
    {s : State} (h : pairAt s.straps.N n B k place = some place') (hc : place'.1 < c) (hcur : place.2.1 < n)
    (hfuel : n ≤ place.2.1 + fuel) :
    ∃ t fuel', expandFrom B n c fuel place s = expandFrom B n c fuel' place' t ∧ t.straps = s.straps ∧
      place'.2.1 < n ∧ n ≤ place'.2.1 + fuel' := by
  induction k generalizing fuel place s with
  | zero => cases h; exact ⟨s, fuel, rfl, rfl, hcur, hfuel⟩
  | succ k ih =>
    obtain ⟨i, cur, pos⟩ := place
    simp only at hcur hfuel
    rw [pairAt] at h
    split at h
    next => cases h
    next v l pos' hread =>
      split at h
      next => cases h
      next hl =>
        obtain ⟨fuel, rfl⟩ := Nat.exists_eq_succ_of_ne_zero (show fuel ≠ 0 by omega)
        have hturn := expandRuns_turn (i := i) (n := n) hcur hread (Nat.not_lt.1 hl) fuel
        rw [← writePair] at hturn
        rw [← writePair_straps i cur v l.toNat s] at h
        split at h
        next hdone =>
          have hend : n ≤ if l = 0 then n else cur + l.toNat := by
            split
            next => exact Nat.le_refl n
            next hl0 => exact hdone.resolve_left hl0
          have hi : i + 1 < c := Nat.lt_of_le_of_lt (channel_le_of_pairAt h) hc
          obtain ⟨t, fuel', hrest, hstraps, hplace⟩ := ih h hn (Nat.le_add_left n 0)
          refine ⟨t, fuel', ?_, by rw [hstraps, writePair_straps], hplace⟩
          rw [← hrest, expandFrom, hturn, expandRuns_of_le hend]
          exact expandAll_drop hi _ _
        next hmore =>
          obtain ⟨hl0, hcur'⟩ := not_or.1 hmore
          have hpos : l.toNat ≠ 0 := mt (BitVec.toNat_inj (y := 0)).1 hl0
          obtain ⟨t, fuel', hrest, hstraps, hplace⟩ := ih (fuel := fuel) h (Nat.not_le.1 hcur') (by simp only; omega)
          refine ⟨t, fuel', ?_, by rw [hstraps, writePair_straps], hplace⟩
          rw [← hrest, expandFrom, hturn, if_neg hl0]
          rfl

section

variable {es : Word} {bytes : List Byte} {s : State}

/-- A fault of a pair that is reached ends `DPAY`. -/
theorem dpayAborts_of_pair_error (hes : 0 < es.toInt) (hN : 1 ≤ s.straps.N) {start k i cur pos : Nat}
    (hstart : valuesEnd s.straps bytes (min es.toNat s.straps.N) = some start)
    (hpair : pairAt s.straps.N (min es.toNat s.straps.N) bytes k (0, 0, start) = some (i, cur, pos))
    (hi : i < s.straps.C) {f : Raised} (h : PairFault s.straps.N bytes pos f) :
    DpayAborts es bytes s f.kind.code.toNat f.info := by
  have hn : 0 < min es.toNat s.straps.N := by
    rw [BitVec.toInt_eq_toNat_cond] at hes
    omega
  obtain ⟨u, hvalues, hu⟩ := parseValues_of_valuesEnd (decodeStart s) hstart
  generalize hw : fixup (min es.toNat s.straps.N) u = w
  have hstraps : w.straps = s.straps := by
    obtain ⟨o, hframe⟩ := fixup_frame (min es.toNat s.straps.N) u
    rw [← hw, hframe]
    exact hu
  replace hpair : pairAt w.straps.N (min es.toNat s.straps.N) bytes k (0, 0, start) = some (i, cur, pos) := by
    rwa [hstraps]
  obtain ⟨t, fuel, hexpand, ht, hcur, hfuel⟩ := expandFrom_pairAt (place := (0, 0, start))
    (place' := (i, cur, pos)) hn hpair hi hn (Nat.le_add_left _ _)
  refine dpayAborts_of_parse_error hes ?_
  rw [parsePayload, hvalues]
  simp only
  rw [hw]
  refine (expandAll_drop (i := 0) (Nat.zero_lt_of_lt hi) _ _).trans (hexpand.trans ?_)
  exact expandFrom_of_pair_error hcur hfuel (by rwa [ht, hstraps])

end

theorem readPair_of_value_error {B : List Byte} {pos : Nat} {f : Raised} (h : uvGet B pos = .error f) :
    readPair B pos = .error f := by rw [readPair, h]

theorem readPair_of_length_error {B : List Byte} {pos used : Nat} {v : Word} {f : Raised}
    (hvalue : uvGet B pos = .ok (v, used)) (h : uvGet B (pos + used) = .error f) : readPair B pos = .error f := by
  rw [readPair, hvalue]
  simp only [h]

theorem readPair_of_ok {B : List Byte} {pos used more : Nat} {v l : Word} (hvalue : uvGet B pos = .ok (v, used))
    (hlength : uvGet B (pos + used) = .ok (l, more)) : readPair B pos = .ok (v, l, pos + used + more) := by
  rw [readPair, hvalue]
  simp only [hlength]

/-- Settles O59: every field named is reached (`dpayAborts_of_field_error`, `dpayAborts_of_pair_error`), and its reader
faults (`fieldFaults`). -/
theorem dpayFieldFaults : Obligations.DpayFieldFaults := by
  intro es bytes s hes hN n aborts
  refine ⟨fun hmode k pos hk hbefore => ?_, fun start k i cur pos hstart hpair hi => ?_⟩
  · exact fieldFaults (P := fun f => aborts f.kind.code.toNat f.info) fun f h =>
      dpayAborts_of_field_error hes hmode hk hbefore h
  · have hfault (f : Raised) (h : readPair bytes pos = .error f) : aborts f.kind.code.toNat f.info :=
      dpayAborts_of_pair_error hes hN hstart hpair hi (.inl h)
    obtain ⟨hcut, hover⟩ := fieldFaults (P := fun f => aborts f.kind.code.toNat f.info) fun f h =>
      hfault f (readPair_of_value_error h)
    refine ⟨hcut, hover, fun v used hvalue => ?_⟩
    obtain ⟨hcut', hover'⟩ := fieldFaults (P := fun f => aborts f.kind.code.toNat f.info) fun f h =>
      hfault f (readPair_of_length_error hvalue h)
    exact ⟨hcut', hover', fun l more hlength hl =>
      dpayAborts_of_pair_error (f := ⟨.rangeFault, l⟩) hes hN hstart hpair hi
        (.inr ⟨v, l, _, readPair_of_ok hvalue hlength, hl, rfl⟩)⟩

end Sys2Proof.Machine
end

section
/-! PROOFS of the family 30_encoding.md. Encoding and decoding are inverse (R91 to R94, R97), but for the pad bytes of a
byte stream (20_memory.md R65), which the decoder ignores. -/

namespace Sys2Proof

/-! ## 64-bit values in packet words (20_memory.md R65) -/

theorem toNat_append_eq_add {m n : Nat} (x : BitVec m) (y : BitVec n) :
    (x ++ y).toNat = x.toNat * 2 ^ n + y.toNat := by
  rw [BitVec.toNat_append, ← Nat.shiftLeft_add_eq_or_of_lt y.isLt, Nat.shiftLeft_eq]

theorem unpackU64s_packU64s (vs : List U64) : unpackU64s (packU64s vs) = vs := by
  induction vs with
  | nil => rfl
  | cons v vs ih =>
    have hv := v.isLt
    have hword : v.extractLsb' 32 32 ++ v.extractLsb' 0 32 = v := by
      apply BitVec.eq_of_toNat_eq
      simp only [toNat_append_eq_add, BitVec.extractLsb'_toNat, Nat.shiftRight_eq_div_pow]
      omega
    calc unpackU64s (packU64s (v :: vs))
      _ = (v.extractLsb' 32 32 ++ v.extractLsb' 0 32) :: unpackU64s (packU64s vs) := rfl
      _ = v :: vs := by rw [hword, ih]

theorem u64Words_append (hi lo : Word) : u64Words (hi ++ lo) = [hi, lo] := by
  have hhi := hi.isLt
  have hlo := lo.isLt
  simp only [u64Words, List.cons.injEq, and_true, ← BitVec.toNat_inj, BitVec.extractLsb'_toNat, toNat_append_eq_add,
    Nat.shiftRight_eq_div_pow]
  omega

theorem packU64s_unpackU64s {k : Nat} {ws : List Word} (h : ws.length = 2 * k) : packU64s (unpackU64s ws) = ws := by
  fun_induction unpackU64s ws generalizing k with
  | case1 hi lo rest ih =>
    simp only [List.length_cons] at h
    calc packU64s ((hi ++ lo) :: unpackU64s rest)
      _ = u64Words (hi ++ lo) ++ packU64s (unpackU64s rest) := List.flatMap_cons
      _ = hi :: lo :: rest := by rw [u64Words_append, ih (k := k - 1) (by omega)]; rfl
  | case2 ws hshort =>
    match ws, hshort with
    | [], _ => rfl
    | [_], _ => simp only [List.length_singleton] at h; omega
    | hi :: lo :: rest, hshort => exact absurd rfl (hshort hi lo rest)

/-! ## Byte streams in packet words (20_memory.md R65) -/

theorem wordBytes_bytesWord (b0 b1 b2 b3 : Byte) : wordBytes (bytesWord b0 b1 b2 b3) = [b0, b1, b2, b3] := by
  have h0 := b0.isLt
  have h1 := b1.isLt
  have h2 := b2.isLt
  have h3 := b3.isLt
  simp only [wordBytes, bytesWord, List.cons.injEq, and_true, ← BitVec.toNat_inj, BitVec.extractLsb'_toNat,
    toNat_append_eq_add, Nat.shiftRight_eq_div_pow]
  omega

/-- The words of a byte stream hold its bytes, then those that pad the last word. -/
theorem flatMap_wordBytes_packBytes (bs : List Byte) : ∃ pad, (packBytes bs).flatMap wordBytes = bs ++ pad := by
  fun_induction packBytes bs with
  | case1 b0 b1 b2 b3 rest ih =>
    obtain ⟨pad, ih⟩ := ih
    exact ⟨pad, by rw [List.flatMap_cons, wordBytes_bytesWord, ih]; rfl⟩
  | case2 => exact ⟨[], rfl⟩
  | case3 | case4 | case5 => exact ⟨_, by rw [List.flatMap_singleton, wordBytes_bytesWord]; rfl⟩

theorem unpackBytes_packBytes (bs : List Byte) : unpackBytes bs.length (packBytes bs) = bs := by
  obtain ⟨pad, h⟩ := flatMap_wordBytes_packBytes bs
  rw [unpackBytes, h, List.take_left' rfl]

/-- Words that are enough for `len` bytes give `len` bytes. -/
theorem unpackBytes_length {len : Nat} {ws : List Word} (h : ws.length = (len + 3) / 4) :
    (unpackBytes len ws).length = len := by
  have hbytes : (ws.flatMap wordBytes).length = ws.length * 4 := by simp [wordBytes]
  rw [unpackBytes, List.length_take, hbytes]
  omega

/-! ## The word rows (30_encoding.md R97, R110) -/

/-- `i` is the word row of the selector `sel` with the data bits `data`. -/
structure WordRow (sel : BitVec 4) (data : BitVec 60) (i : Instr) : Prop where
  encode_eq : encode i = .s8word (s8Word sel data)
  wf (c : Nat) : i.wf c = true
  exec_eq (s : Machine.State) : Machine.exec i s = Machine.unpackLayout sel data s

/-- Each of the 16 selectors has its row. -/
theorem wordRow_decodeS8Word (sel : BitVec 4) (data : BitVec 60) :
    WordRow sel data (decodeS8Word (s8Word sel data)) := by
  rw [decodeS8Word, Laws.selField_s8Word, Laws.dataField_s8Word]
  obtain ⟨⟨k, hk⟩⟩ := sel
  interval_cases k <;> exact ⟨rfl, fun _ => rfl, fun _ => rfl⟩

theorem s8Word_fields (w : U64) : s8Word (selField w) (dataField w) = w := by
  have hw := w.isLt
  apply BitVec.eq_of_toNat_eq
  simp only [s8Word, selField, dataField, toNat_append_eq_add, BitVec.extractLsb'_toNat, Nat.shiftRight_eq_div_pow]
  omega

/-- What a bare word decodes to is the row of its selector. -/
theorem wordRow_of_word (w : U64) : WordRow (selField w) (dataField w) (decodeS8Word w) := by
  have h := wordRow_decodeS8Word (selField w) (dataField w)
  rwa [s8Word_fields] at h

/-! ## Decoding what was encoded -/

theorem encodedFormat (i : Instr) : Laws.EncodedFormat.Statement i := by
  cases i with
  | setxor b => exact Laws.EncodedFormat.setxor b
  | setsref k r => exact Laws.EncodedFormat.setsref k r
  | rdcsr a => exact Laws.EncodedFormat.rdcsr a
  | s8pack vs => exact Laws.EncodedFormat.s8pack vs
  | s8unpk ws => exact Laws.EncodedFormat.s8unpk ws
  | s8unpkn n ws => exact Laws.EncodedFormat.s8unpkn n ws
  | esamp v q => exact Laws.EncodedFormat.esamp v q
  | eflush => exact Laws.EncodedFormat.eflush
  | ecancel => exact Laws.EncodedFormat.ecancel
  | dpay es bs => exact Laws.EncodedFormat.dpay es bs
  | rdout j => exact Laws.EncodedFormat.rdout j
  | s8wSel0 d => exact Laws.EncodedFormat.s8wSel0 d
  | s8wSel1 d => exact Laws.EncodedFormat.s8wSel1 d
  | s8wSel2 d => exact Laws.EncodedFormat.s8wSel2 d
  | s8wSel3 d => exact Laws.EncodedFormat.s8wSel3 d
  | s8wSel4 d => exact Laws.EncodedFormat.s8wSel4 d
  | s8wSel5 d => exact Laws.EncodedFormat.s8wSel5 d
  | s8wSel6 d => exact Laws.EncodedFormat.s8wSel6 d
  | s8wSel7 d => exact Laws.EncodedFormat.s8wSel7 d
  | s8wSel8 d => exact Laws.EncodedFormat.s8wSel8 d
  | s8wSel9 d => exact Laws.EncodedFormat.s8wSel9 d
  | s8wSel10 d => exact Laws.EncodedFormat.s8wSel10 d
  | s8wSel11 d => exact Laws.EncodedFormat.s8wSel11 d
  | s8wSel12 d => exact Laws.EncodedFormat.s8wSel12 d
  | s8wSel13 d => exact Laws.EncodedFormat.s8wSel13 d
  | s8wSel14 d => exact Laws.EncodedFormat.s8wSel14 d
  | s8wSel15 d => exact Laws.EncodedFormat.s8wSel15 d

theorem header_injective {op op' : Opcode} {a a' : BitVec 24} (h : header op a = header op' a') :
    op = op' ∧ a = a' := by
  have hop := congrArg opField h
  have harg := congrArg argField h
  rw [opField_header, opField_header] at hop
  rw [argField_header, argField_header] at harg
  exact ⟨Option.some.inj (by rw [← opcodeOf_code op, hop, opcodeOf_code]), harg⟩

section

variable {c : Nat} {i : Instr} (hwf : i.wf c = true)

include hwf

theorem decode_encode_of_packet {op : Opcode} {a : BitVec 24} {ws : List Word}
    (h : encode i = .packet (header op a :: ws)) (hoperands : assemble c op a ws = i) :
    decode c (encode i) = .ok i := by
  have hformat := encodedFormat i c hwf
  rw [h] at hformat ⊢
  obtain ⟨op', a', ws', heq, hlen, hzero⟩ := hformat
  obtain ⟨hheader, rfl⟩ := List.cons.inj heq
  obtain ⟨rfl, rfl⟩ := header_injective hheader
  exact (decodePacket_eq_ok_iff _ _ _).2 ⟨op, a, ws, ⟨rfl, hzero, hlen⟩, hoperands.symm⟩

theorem decode_encode_of_s8word {w : U64} (h : encode i = .s8word w) : decode c (encode i) = .ok i := by
  have hformat := encodedFormat i c hwf
  rw [h] at hformat ⊢
  exact congrArg Except.ok hformat

end

/-- Settles O1: the packet of a command passes the decoder's checks, and its operands are read back; a word decodes to
its row. -/
theorem decodeInvertsEncode : Obligations.DecodeInvertsEncode := by
  intro c i hwf
  cases i with
  | setxor b => exact decode_encode_of_packet hwf rfl (by cases b <;> rfl)
  | setsref | rdcsr | eflush | ecancel | rdout => exact decode_encode_of_packet hwf rfl rfl
  | s8pack vs => exact decode_encode_of_packet hwf rfl (congrArg Instr.s8pack (unpackU64s_packU64s vs))
  | s8unpk ws => exact decode_encode_of_packet hwf rfl (congrArg Instr.s8unpk (unpackU64s_packU64s ws))
  | s8unpkn n ws => exact decode_encode_of_packet hwf rfl (congrArg (Instr.s8unpkn n) (unpackU64s_packU64s ws))
  | esamp v q =>
    have hv : v.length = c := by
      simp only [Instr.wf, Bool.and_eq_true, beq_iff_eq] at hwf
      exact hwf.1
    refine decode_encode_of_packet hwf rfl ?_
    rw [assemble, List.take_left' hv, List.drop_left' hv]
  | dpay es bytes =>
    refine decode_encode_of_packet hwf rfl (congrArg (Instr.dpay es) ?_)
    rw [Laws.fitsArgument_toNat hwf]
    exact unpackBytes_packBytes bytes
  | _ => exact decode_encode_of_s8word hwf rfl

/-! ## Encoding what was decoded -/

theorem ofNat_length_unpackU64s {ws : List Word} {a : BitVec 24} (h : ws.length = 2 * a.toNat) :
    BitVec.ofNat 24 (unpackU64s ws).length = a := by
  rw [unpackU64s_length, h, Nat.mul_div_cancel_left _ (by decide), BitVec.ofNat_toNat, BitVec.setWidth_eq]

/-- The argument of `SETXOR` is its one bit (R92). -/
theorem setxor_argument {a : BitVec 24} (h : fixedFieldsZero .setxor a = true) :
    (if a.getLsbD 0 then 1 else 0) = a := by
  rw [fixedFieldsZero_setxor_iff] at h
  have hbit : a = 0 ∨ a = 1 := by bv_omega
  rcases hbit with rfl | rfl <;> rfl

/-- The operands of a packet that the decoder accepts encode to that packet, a `DPAY` aside. -/
theorem encode_assemble {c : Nat} {p : Packet} {op : Opcode} {a : BitVec 24} {ws : List Word}
    (h : HasFormat c p op a ws) (hop : op ≠ .dpay) : encode (assemble c op a ws) = .packet p := by
  obtain ⟨rfl, hzero, hlen⟩ := h
  rw [List.length_cons] at hlen
  cases op with
  | setxor =>
    obtain rfl : ws = [] := List.length_eq_zero_iff.1 (Nat.succ.inj hlen)
    simp only [assemble, encode, setxor_argument hzero]
  | rdcsr | rdout =>
    obtain rfl : ws = [] := List.length_eq_zero_iff.1 (Nat.succ.inj hlen)
    rfl
  | eflush | ecancel =>
    obtain rfl : ws = [] := List.length_eq_zero_iff.1 (Nat.succ.inj hlen)
    obtain rfl : a = 0#24 := eq_of_beq hzero
    rfl
  | setsref =>
    obtain ⟨r, rfl⟩ := List.length_eq_one_iff.1 (Nat.succ.inj hlen)
    rfl
  | s8pack | s8unpk =>
    have hwords : ws.length = 2 * a.toNat := by simp only [packetLength] at hlen; omega
    simp only [assemble, encode, ofNat_length_unpackU64s hwords, packU64s_unpackU64s hwords]
  | s8unpkn =>
    obtain ⟨n, ws, rfl⟩ : ∃ n ws', ws = n :: ws' :=
      List.exists_cons_of_length_pos (by simp only [packetLength] at hlen; omega)
    have hwords : ws.length = 2 * a.toNat := by simp only [packetLength, List.length_cons] at hlen; omega
    simp only [assemble, encode, List.headD_cons, List.tail_cons, ofNat_length_unpackU64s hwords,
      packU64s_unpackU64s hwords]
  | esamp =>
    obtain rfl : a = 0#24 := eq_of_beq hzero
    simp only [assemble, encode, List.take_append_drop]
    rfl
  | dpay => exact absurd rfl hop

/-- Settles O2, by the opcode of the packet, or the selector of the word. -/
theorem encodeInvertsDecode : Obligations.EncodeInvertsDecode := by
  intro c e i h
  cases e with
  | s8word w =>
    cases h
    have hrow := wordRow_of_word w
    have hencode : encode (decodeS8Word w) = .s8word w := by rw [hrow.encode_eq, s8Word_fields]
    refine ⟨hrow.wf c, fun _ => hencode, fun es bytes hdpay => ?_⟩
    rw [hdpay] at hencode
    cases hencode
  | packet p =>
    obtain ⟨op, a, ws, hformat, rfl⟩ := (decodePacket_eq_ok_iff _ _ _).1 h
    refine ⟨wf_assemble hformat, fun hdpay => encode_assemble hformat ?_, fun es bytes hdpay => ?_⟩
    · rintro rfl
      exact hdpay _ _ rfl
    · obtain rfl : op = .dpay := by cases op <;> cases hdpay; rfl
      obtain ⟨rfl, -, hlen⟩ := hformat
      simp only [packetLength, List.length_cons] at hlen
      obtain ⟨w, ws, rfl⟩ : ∃ w ws', ws = w :: ws' := List.exists_cons_of_length_pos (by omega)
      rw [List.length_cons] at hlen
      obtain ⟨rfl, rfl⟩ := Instr.dpay.inj hdpay
      have hbytes : (unpackBytes a.toNat ws).length = a.toNat := unpackBytes_length (by omega)
      refine ⟨header .dpay a, ws, packBytes (unpackBytes a.toNat ws), rfl, ?_, ?_, ?_⟩
      · simp only [assemble, encode, List.headD_cons, List.tail_cons, hbytes, BitVec.ofNat_toNat, BitVec.setWidth_eq]
      · rw [Laws.packBytes_length, hbytes]
        omega
      · exact congrArg (unpackBytes · ws) hbytes

/-- Settles O4: the decoder evaluated on the twelve encodings. -/
theorem writtenOutPacketsDecode : Obligations.WrittenOutPacketsDecode :=
  ⟨rfl, rfl, rfl, rfl, rfl, rfl, rfl, rfl, rfl, rfl, rfl, rfl⟩

end Sys2Proof
end

section
/-! PROOFS of the family 42_simple8b.md. One word (R162 to R164), and what the commands `S8PACK`, `S8UNPK`, `S8UNPKN`
and the bare words answer (R174 to R176). -/

namespace Sys2Proof.Machine

/-! ## One word (R162 to R164, 30_encoding.md R97 to R99) -/

theorem s8Row_width_le {tab : List (Nat × Nat)} (h : s8tabLegal tab = true) (sel : Nat) : (s8Row tab sel).2 ≤ 60 := by
  obtain ⟨hpos, hbits⟩ := s8Row_legal h sel
  exact Nat.le_trans (Nat.le_mul_of_pos_left _ hpos) hbits

theorem s8UnpackRow_toNat {tab : List (Nat × Nat)} (h : s8tabLegal tab = true) (sel : Nat) (w : U64) :
    (s8UnpackRow tab sel w).map BitVec.toNat = (List.range (s8Row tab sel).1).map fun k =>
      w.toNat / 2 ^ ((s8Row tab sel).2 * k) % 2 ^ (s8Row tab sel).2 := by
  refine List.ext_getElem (by simp [s8UnpackRow_length]) fun k hk _ => ?_
  rw [List.length_map] at hk
  rw [List.getElem_map, List.getElem_map, List.getElem_range, s8UnpackRow_getElem_toNat (s8Row_width_le h sel) hk]

/-- Settles O24: the slots are the digits of the data bits (`slotsValue`), read back by `s8UnpackWord_s8PackWord`. -/
theorem wordSlots : Obligations.WordSlots := by
  intro tab sel row h hrow
  have hsel : sel < 16 := s8tabLegal_length h ▸ (List.getElem?_eq_some_iff.1 hrow).1
  obtain rfl := s8Row_of_getElem? hrow
  refine ⟨fun w hw => ?_, fun vs hlen hfits => ⟨s8UnpackWord_s8PackWord h hsel hlen hfits,
    s8PackWord_sel h hsel hlen hfits, ?_⟩⟩
  · rw [s8UnpackWord, selField_toNat, hw, s8UnpackRow_toNat h]
  · obtain ⟨-, hbits⟩ := s8Row_legal h sel
    rw [← hlen] at hbits ⊢
    rw [s8PackWord_toNat hsel hbits hfits, Nat.mul_add_mod]
    exact Nat.lt_of_le_of_lt (Nat.mod_le _ _) (slotsValue_lt hfits)

/-! ## `S8PACK` (R174) -/

/-- Values as response words: each as high word then low word. -/
theorem packU64s_eq (vs : List U64) :
    packU64s vs = vs.flatMap fun v => [BitVec.ofNat 32 (v.toNat / 2 ^ 32), BitVec.ofNat 32 v.toNat] := by
  refine List.flatMap_congr fun v _ => ?_
  simp [u64Words, ← BitVec.toNat_inj, Nat.shiftRight_eq_div_pow]

/-- A value of 2^60 or more is reported with the index of the first. -/
theorem s8Pack_of_first (tab : List (Nat × Nat)) {vs : List U64} {q : Nat} {v : U64} (hq : vs[q]? = some v)
    (hv : 2 ^ 60 ≤ v.toNat) (hfirst : ∀ p u, p < q → vs[p]? = some u → u.toNat < 2 ^ 60) :
    s8Pack tab vs = .error ⟨.overflow, natWord q⟩ := by
  obtain ⟨hlt, rfl⟩ := List.getElem?_eq_some_iff.1 hq
  have hfind : vs.findIdx? (fun v => 2 ^ 60 ≤ v.toNat) = some q :=
    List.findIdx?_eq_some_iff_getElem.2 ⟨hlt, decide_eq_true hv, fun p hp =>
      mt of_decide_eq_true (Nat.not_le.2 (hfirst p _ hp (List.getElem?_eq_getElem (Nat.lt_trans hp hlt))))⟩
  rw [s8Pack, hfind]

/-- Settles O29, by the check that the packer makes first (`s8Pack_of_lt`, `s8Pack_of_first`). -/
theorem s8packEffect : Obligations.S8packEffect := by
  intro vs s h
  refine ⟨fun hv => ?_, fun q v hq hv hfirst => ?_⟩
  · have hpacking := packing_s8PackWords h vs hv
    refine ⟨?_, hpacking.s8UnpackAll_eq h, hpacking.length_le h⟩
    rw [exec, execS8pack, s8Pack_of_lt hv, ← packU64s_eq, ← respond_eq]
  · rw [exec, execS8pack, s8Pack_of_first _ hq hv hfirst]
    exact congrArg Host.Outcome.next (raiseFault_eq .overflow _ s)

/-! ## `S8UNPK` (R175) -/

/-- Settles O30, by `answerUnpacked_eq`. -/
theorem s8unpkEffect : Obligations.S8unpkEffect := by
  intro ws s
  have hexec : exec (.s8unpk ws) s = _ := answerUnpacked_eq ws.length (s8UnpackAll s.straps.s8tab ws) s
  refine ⟨fun hfits => ?_, fun hlong => ?_⟩
  · rw [hexec, ← packU64s_eq]
    exact congrArg Host.Outcome.next (if_pos hfits)
  · rw [hexec]
    exact congrArg Host.Outcome.next (if_neg (Nat.not_le.2 hlong))

/-! ## `S8UNPKN` (R169, R176) -/

/-- `used` is the least number of the words `ws` that hold `n` values. -/
def LeastWords (tab : List (Nat × Nat)) (ws : List U64) (n used : Nat) : Prop :=
  used ≤ ws.length ∧ n ≤ ((ws.take used).flatMap (s8UnpackWord tab)).length ∧
    ∀ u, u < used → ((ws.take u).flatMap (s8UnpackWord tab)).length < n

theorem leastWords_zero (tab : List (Nat × Nat)) (ws : List U64) : LeastWords tab ws 0 0 :=
  ⟨Nat.zero_le _, Nat.zero_le _, fun u hu => absurd hu (Nat.not_lt_zero u)⟩

/-- The first word is needed if any value is, and then the words needed for the values it does not hold. -/
theorem LeastWords.cons {tab : List (Nat × Nat)} {ws : List U64} {w : U64} {n used : Nat} (hn : n ≠ 0)
    (h : LeastWords tab ws (n - (s8UnpackWord tab w).length) used) : LeastWords tab (w :: ws) n (used + 1) := by
  obtain ⟨hused, henough, hleast⟩ := h
  refine ⟨Nat.succ_le_succ hused, ?_, fun u hu => ?_⟩
  · rw [List.take_succ_cons, List.flatMap_cons, List.length_append]
    omega
  · cases u with
    | zero => exact Nat.pos_of_ne_zero hn
    | succ u =>
      have := hleast u (Nat.lt_of_succ_lt_succ hu)
      rw [List.take_succ_cons, List.flatMap_cons, List.length_append]
      omega

/-- The loop of R169 stops at the first word with which `n` values are reached. -/
theorem s8UntilFrom_leastWords {tab : List (Nat × Nat)} {ws : List U64} {n : Nat} (pos : Nat)
    (h : n ≤ (ws.flatMap (s8UnpackWord tab)).length) :
    ∃ used, s8UntilFrom tab (ws.flatMap toBe64) pos n = .ok ((ws.flatMap (s8UnpackWord tab)).take n, used) ∧
      LeastWords tab ws n used := by
  induction ws generalizing n pos with
  | nil =>
    obtain rfl := Nat.le_zero.1 h
    exact ⟨0, s8UntilFrom_zero tab _ pos, leastWords_zero tab _⟩
  | cons w ws ih =>
    rcases Nat.eq_zero_or_pos n with rfl | hn
    · exact ⟨0, by rw [List.take_zero, s8UntilFrom_zero], leastWords_zero tab _⟩
    · rw [List.flatMap_cons, List.length_append] at h
      obtain ⟨used, hrest, hleast⟩ := ih (pos + 8) (n := n - (s8UnpackWord tab w).length) (by omega)
      refine ⟨used + 1, ?_, hleast.cons (Nat.ne_of_gt hn)⟩
      rw [List.flatMap_cons, s8UntilFrom_toBe64 (Nat.ne_of_gt hn) hrest, List.flatMap_cons, List.take_append]

/-- `S8UNPKN` of words that hold `n` values. -/
theorem exec_s8unpkn_of_le {n : Word} {ws : List U64} {s : State}
    (h : n.toNat ≤ (ws.flatMap (s8UnpackWord s.straps.s8tab)).length) :
    ∃ used, LeastWords s.straps.s8tab ws n.toNat used ∧ exec (.s8unpkn n ws) s =
      .next (if 1 + 2 * n.toNat ≤ 2 ^ 32 - 1 then
          answersOk (natWord used :: packU64s ((ws.flatMap (s8UnpackWord s.straps.s8tab)).take n.toNat)) s
        else answersFault 0x11 n s) := by
  obtain ⟨used, hread, hleast⟩ := s8UntilFrom_leastWords 0 h
  refine ⟨used, hleast, ?_⟩
  rw [exec, execS8unpkn, s8UnpackUntil, List.drop_zero, hread]
  simp only [countFits, List.length_take_of_le h, decide_eq_true_eq]
  split
  · rw [respond_eq]
  · exact congrArg Host.Outcome.next (raiseFault_eq .badOperand n s)

/-- Settles O31: enough words (`exec_s8unpkn_of_le`), or too few (`s8UntilFrom_of_lt`). -/
theorem s8unpknEffect : Obligations.S8unpknEffect := by
  intro n ws s
  simp only [List.take_length]
  refine ⟨fun henough hfits => ?_, fun hfew => ?_⟩
  · obtain ⟨used, ⟨hused, hholds, hleast⟩, hexec⟩ := exec_s8unpkn_of_le henough
    refine ⟨used, hused, hholds, hleast, ?_⟩
    rw [hexec, if_pos hfits, packU64s_eq]
    rfl
  · have hread := s8UntilFrom_of_lt (tail := []) 0 (by decide) hfew
    rw [List.append_nil, Nat.zero_add] at hread
    rw [exec, execS8unpkn, s8UnpackUntil, List.drop_zero, hread]
    exact congrArg Host.Outcome.next (raiseFault_eq .truncatedInput _ s)

/-- Settles O32: `exec_s8unpkn_of_le` where the count does not fit. -/
theorem s8unpknCountRefused : Obligations.S8unpknCountRefused := by
  intro n ws s henough hlong
  obtain ⟨used, -, hexec⟩ := exec_s8unpkn_of_le henough
  rw [hexec, if_neg (Nat.not_le.2 hlong)]

/-! ## Bare words (R164) -/

theorem s8Word_toNat (sel : BitVec 4) (data : BitVec 60) :
    (s8Word sel data).toNat = 2 ^ 60 * sel.toNat + data.toNat := by
  rw [s8Word, toNat_append_eq_add, Nat.mul_comm]

theorem s8Row_eq_getD {tab : List (Nat × Nat)} (h : s8tabLegal tab = true) (sel : BitVec 4) :
    s8Row tab sel.toNat = tab.getD sel.toNat (0, 0) := by
  have hsel : sel.toNat < tab.length := s8tabLegal_length h ▸ sel.isLt
  rw [s8Row, List.getD_eq_getElem _ _ hsel, List.getD_eq_getElem _ _ hsel]

/-- The slots of a bare word are in its data bits: its selector is above them all. -/
theorem s8UnpackRow_s8Word_toNat {tab : List (Nat × Nat)} (h : s8tabLegal tab = true) (sel : BitVec 4)
    (data : BitVec 60) :
    (s8UnpackRow tab sel.toNat (s8Word sel data)).map BitVec.toNat =
      (List.range (s8Row tab sel.toNat).1).map fun k =>
        data.toNat / 2 ^ ((s8Row tab sel.toNat).2 * k) % 2 ^ (s8Row tab sel.toNat).2 := by
  rw [s8UnpackRow_toNat h]
  refine List.map_congr_left fun k hk => ?_
  obtain ⟨-, hbits⟩ := s8Row_legal h sel.toNat
  have hslot : (s8Row tab sel.toNat).2 * k + (s8Row tab sel.toNat).2 ≤ 60 := by
    rw [← Nat.mul_succ, Nat.mul_comm]
    exact Nat.le_trans (Nat.mul_le_mul_right _ (List.mem_range.1 hk)) hbits
  rw [s8Word_toNat, slot_of_low_bits hslot]

/-- A 64-bit number as two words, the high one first. -/
def numberWords (v : Nat) : List Word := [BitVec.ofNat 32 (v / 2 ^ 32), BitVec.ofNat 32 v]

/-- The slots of a row of a word with these data bits, as response words. -/
def slotWords (row : Nat × Nat) (data : BitVec 60) : List Word :=
  (List.range row.1).flatMap fun k => numberWords (data.toNat / 2 ^ (row.2 * k) % 2 ^ row.2)

theorem packU64s_s8UnpackRow {tab : List (Nat × Nat)} (h : s8tabLegal tab = true) (sel : BitVec 4)
    (data : BitVec 60) :
    packU64s (s8UnpackRow tab sel.toNat (s8Word sel data)) = slotWords (s8Row tab sel.toNat) data := by
  calc packU64s (s8UnpackRow tab sel.toNat (s8Word sel data))
    _ = ((s8UnpackRow tab sel.toNat (s8Word sel data)).map BitVec.toNat).flatMap numberWords := by
      rw [packU64s_eq, List.flatMap_map]
      rfl
    _ = slotWords (s8Row tab sel.toNat) data := by rw [s8UnpackRow_s8Word_toNat h, List.flatMap_map, slotWords]

/-- What a word row answers. -/
theorem unpackLayout_eq {s : State} (h : s8tabLegal s.straps.s8tab = true) (sel : BitVec 4) (data : BitVec 60) :
    let row := s.straps.s8tab.getD sel.toNat (0, 0)
    unpackLayout sel data s = .next
      (if 2 * row.1 ≤ 2 ^ 32 - 1 then answersOk (slotWords row data) s else answersFault 0x11 1#32 s) := by
  rw [unpackLayout, answerUnpacked_eq, s8UnpackRow_length, packU64s_s8UnpackRow h, s8Row_eq_getD h]
  rfl

/-- Settles O34: `unpackLayout_eq` for each of the 16 selectors. -/
theorem s8wordEffect : Obligations.S8wordEffect := by
  intro d s h
  have hrow (sel : BitVec 4) := unpackLayout_eq h sel d
  exact ⟨hrow 0, hrow 1, hrow 2, hrow 3, hrow 4, hrow 5, hrow 6, hrow 7, hrow 8, hrow 9, hrow 10, hrow 11, hrow 12,
    hrow 13, hrow 14, hrow 15⟩

/-- Settles O35: a word is the row of its selector (`wordRow_of_word`), and unpacking it alone unpacks that row. -/
theorem s8wordIsS8unpkOfOne : Obligations.S8wordIsS8unpkOfOne := by
  intro w s
  calc exec (decodeS8Word w) s
    _ = answerUnpacked 1 (s8UnpackWord s.straps.s8tab w) s := by
      rw [(wordRow_of_word w).exec_eq, unpackLayout, s8Word_fields, s8UnpackWord]
    _ = answerUnpacked 1 (s8UnpackAll s.straps.s8tab [w]) s := by rw [s8UnpackAll, List.flatMap_singleton]

end Sys2Proof.Machine
end

section
/-! PROOFS of the family 40_control_config.md. `SETXOR`, `SETSREF` and `RDCSR` (R121 to R123), and the sequence
`CONFIGURE` (30_encoding.md R109). -/

namespace Sys2Proof.Machine

/-! ## `SETXOR` (R121) -/

theorem exec_setxor_of_idle {s : State} (h : s.estate = .idle) (b : Bool) :
    exec (.setxor b) s = .next (answersOk [] (s.setXor b)) := by
  rw [exec, execSetxor, if_neg (not_not.2 h), respond_eq]

/-- Settles O16, by the state machine being idle or not. -/
theorem setxorEffect : Obligations.SetxorEffect := by
  refine fun b s => ⟨fun h => exec_setxor_of_idle h b, fun h => ?_⟩
  rw [exec, execSetxor, if_pos h, raiseFault_eq]
  rfl

/-! ## Entries of the spatial table as numbers (10_state.md R34) -/

theorem toInt_eq_natCast_iff {n : Nat} (hn : n < 2 ^ 31) (w : Word) : w.toInt = n ↔ w = BitVec.ofNat 32 n := by
  have hw := w.isLt
  rw [← BitVec.toNat_inj, BitVec.toNat_ofNat, BitVec.toInt_eq_toNat_cond]
  split <;> omega

theorem toInt_eq_neg_one_iff (w : Word) : w.toInt = -1 ↔ w = noRef := by
  have hw := w.isLt
  rw [← BitVec.toNat_inj, BitVec.toInt_eq_toNat_cond, noRef, BitVec.toNat_ofNat]
  split <;> omega

theorem toInt_eq_toNat_of_nonneg {w : Word} (h : 0 ≤ w.toInt) : w.toInt = w.toNat := by
  have hw := w.isLt
  rw [BitVec.toInt_eq_toNat_cond] at h ⊢
  split <;> omega

theorem referredTo_iff (s : State) (i : BitVec 24) :
    referredTo s i.toNat = true ↔
      ∃ k, k < s.straps.C ∧ k ≠ i.toNat ∧ (s.srefAt k).toInt = (i.toNat : Int) := by
  have hi : i.toNat < 2 ^ 31 := Nat.lt_trans i.isLt (by decide)
  simp only [referredTo, List.any_eq_true, List.mem_range, Bool.and_eq_true, bne_iff_ne, beq_iff_eq,
    toInt_eq_natCast_iff hi]

/-! ## `SETSREF` (R122) -/

/-- The checks of R122 that an operand pair has passed. -/
structure SrefAllowed (s : State) (i : BitVec 24) (r : Word) : Prop where
  channel : i.toNat < s.straps.C
  lower : -1 ≤ r.toInt
  upper : r.toInt < s.straps.C
  other : r.toInt ≠ i.toNat
  chain : 0 ≤ r.toInt → s.srefAt r.toNat = noRef
  free : 0 ≤ r.toInt → ∀ k, k < s.straps.C → k ≠ i.toNat → (s.srefAt k).toInt ≠ i.toNat

theorem srefOffence_eq_none_iff (i : BitVec 24) (r : Word) (s : State) :
    srefOffence i r s = none ↔ SrefAllowed s i r := by
  simp only [srefOffence, referredTo_iff, ite_eq_iff, reduceCtorEq, and_false, and_true, false_or, not_le, not_or,
    not_lt, not_and, not_not, not_exists]
  constructor
  · rintro ⟨hi, ⟨hlower, hupper⟩, hother, hchain, hfree⟩
    exact ⟨hi, hlower, hupper, hother, hchain, hfree⟩
  · rintro ⟨hi, hlower, hupper, hother, hchain, hfree⟩
    exact ⟨hi, ⟨hlower, hupper⟩, hother, hchain, hfree⟩

theorem exec_setsref_of_idle {s : State} (h : s.estate = .idle) (i : BitVec 24) (r : Word) :
    exec (.setsref i r) s = .next (match srefOffence i r s with
      | some info => answersFault 0x11 info s
      | none => answersOk [] (s.setSref i.toNat r)) := by
  rw [exec, execSetsref, if_neg (not_not.2 h)]
  cases srefOffence i r s with
  | some info => exact congrArg Host.Outcome.next (raiseFault_eq .badOperand info s)
  | none => exact congrArg Host.Outcome.next (respond_eq [] _)

theorem exec_setsref_of_allowed {s : State} (h : s.estate = .idle) {i : BitVec 24} {r : Word}
    (hallowed : SrefAllowed s i r) : exec (.setsref i r) s = .next (answersOk [] (s.setSref i.toNat r)) := by
  rw [exec_setsref_of_idle h, (srefOffence_eq_none_iff i r s).2 hallowed]

/-- Settles O17, by the checks in their order. -/
theorem setsrefEffect : Obligations.SetsrefEffect := by
  intro i r s refused
  by_cases hidle : s.estate = .idle
  · have hexec := exec_setsref_of_idle hidle i r
    simp only [srefOffence, referredTo_iff, argWord_eq, noRef] at hexec
    rw [if_neg (not_not.2 hidle)]
    split_ifs at hexec ⊢ with hchannel hrange hself hchain hfree
    any_goals exact hexec
    refine ⟨s.sref.putOr noRef (0, i.toNat) r, hexec, ?_, fun k hk => ?_⟩
    · exact (setSref_srefAt i.toNat r s i.toNat).trans (if_pos rfl)
    · exact (setSref_srefAt i.toNat r s k).trans (if_neg (Ne.symm hk))
  · rw [if_pos hidle, exec, execSetsref, if_pos hidle, raiseFault_eq]
    rfl

/-! ## `RDCSR` (R123, 10_state.md R35) -/

theorem exec_rdcsr_of_some {a : BitVec 24} {s : State} {v : Word} (h : csrRead a s = some v) :
    exec (.rdcsr a) s = .next (answersOk [v] s) := by
  rw [exec, execRdcsr, h]
  exact congrArg Host.Outcome.next (respond_eq [v] s)

theorem exec_rdcsr_of_none {a : BitVec 24} {s : State} (h : csrRead a s = none) :
    exec (.rdcsr a) s = .next (answersFault 0x11 (BitVec.ofNat 32 a.toNat) s) := by
  rw [exec, execRdcsr, h, ← argWord_eq]
  exact congrArg Host.Outcome.next (raiseFault_eq .badOperand _ s)

/-- Beyond the ten registers there is only `SREF`. -/
theorem csrRead_of_gt {a : BitVec 24} (h : 9 < a.toNat) (s : State) :
    csrRead a s = if 0x010000 ≤ a.toNat ∧ a.toNat < 0x010000 + s.straps.C then
      some (s.srefAt (a.toNat - 0x010000)) else none := by
  have hne (k : Nat) (hk : k ≤ 9) : a ≠ BitVec.ofNat 24 k := by
    rintro rfl
    rw [BitVec.toNat_ofNat] at h
    omega
  rw [csrRead, if_neg (hne 0 (by decide)), if_neg (hne 1 (by decide)), if_neg (hne 2 (by decide)),
    if_neg (hne 3 (by decide)), if_neg (hne 4 (by decide)), if_neg (hne 5 (by decide)), if_neg (hne 6 (by decide)),
    if_neg (hne 7 (by decide)), if_neg (hne 8 (by decide)), if_neg (hne 9 (by decide))]

/-- The low three bits of a word, as a number. -/
theorem lowBits_eq : ∀ b2 b1 b0 : Bool, 0#29 ++ BitVec.ofBool b2 ++ BitVec.ofBool b1 ++ BitVec.ofBool b0 =
    BitVec.ofNat 32 (b0.toNat + b1.toNat * 2 + b2.toNat * 4) := by decide

theorem modeWord_eq (p : Straps) : modeWord p = BitVec.ofNat 32
    ((if 16 < p.N then 1 else 0) + (if 4096 < p.N then 2 else 0) + if p.fill = .cnt then 4 else 0) := by
  rw [modeWord, lowBits_eq, s8mode, deflateMode]
  simp only [Bool.toNat, Bool.cond_decide, ite_mul, Nat.one_mul, Nat.zero_mul]

theorem count24_eq {n : Nat} (h : n < 2 ^ 24) : count24 n = BitVec.ofNat 32 n := by
  apply BitVec.eq_of_toNat_eq
  rw [count24, BitVec.toNat_setWidth, BitVec.toNat_ofNat, BitVec.toNat_ofNat, Nat.mod_eq_of_lt h]

/-- Settles O18: the ten registers one by one, `SREF` and the rest by `csrRead_of_gt`. -/
theorem rdcsrMap : Obligations.RdcsrMap := by
  intro a s hj hout reads
  have hread {k : Nat} {v : Word} (ha : a.toNat = k) (h : csrRead (BitVec.ofNat 24 k) s = some v) : reads v :=
    exec_rdcsr_of_some (by rw [← h, ← ha, BitVec.ofNat_toNat, BitVec.setWidth_eq])
  refine ⟨fun ha => hread ha rfl, fun ha => hread ha rfl, fun ha => hread ha rfl, fun ha => hread ha rfl,
    fun ha => hread ha ?_, fun ha => hread ha ?_, fun ha => hread ha ?_, fun ha => hread ha ?_,
    fun ha => hread ha ?_, fun ha => hread ha rfl, fun i hi ha => exec_rdcsr_of_some ?_,
    fun hlarge hno => exec_rdcsr_of_none ?_⟩
  · exact congrArg some (modeWord_eq s.straps)
  · cases hxor : s.ctrlXor <;> simp [csrRead, hxor]
  · cases hstate : s.estate <;> simp [csrRead, hstate, estateCode]
  · exact congrArg some (count24_eq hj)
  · exact congrArg some (count24_eq hout)
  · rw [csrRead_of_gt (by omega), if_pos (by omega), show a.toNat - 0x010000 = i by omega]
  · rw [csrRead_of_gt hlarge, if_neg]
    rintro ⟨hlow, hhigh⟩
    exact hno (a.toNat - 0x010000) (by omega) (by omega)

/-! ## The sequence `CONFIGURE` (30_encoding.md R109) -/

/-- `t` is where `SETSREF` of the entries `is` of the spatial table has led from `s`, the values taken from `f`: each
answered `OK`, the entries are written, and the rest of what the sequence looks at is as in `s`. -/
structure EntriesWritten (f : Nat → Word) (is : List Nat) (s t : State) : Prop where
  straps : t.straps = s.straps
  idle : t.estate = s.estate
  mode : t.ctrlXor = s.ctrlXor
  faults : t.faults = s.faults
  entries : ∀ k, t.srefAt k = if k ∈ is then f k else s.srefAt k
  responses : t.responses = s.responses ++ is.map fun _ => [0#32, 0#32]

/-- A sequence of `SETSREF` that passes its checks whichever of the entries are written yet. -/
theorem execAll_setsref (f : Nat → Word) {is : List Nat} {s : State} (hidle : s.estate = .idle)
    (hfits : ∀ i ∈ is, i < 2 ^ 24)
    (hallowed : ∀ u : State, u.straps = s.straps → (∀ k, u.srefAt k = f k ∨ u.srefAt k = s.srefAt k) →
      ∀ i ∈ is, SrefAllowed u (BitVec.ofNat 24 i) (f i)) :
    ∃ t, execAll (is.map fun i => .setsref (BitVec.ofNat 24 i) (f i)) s = .next t ∧ EntriesWritten f is s t := by
  induction is generalizing s with
  | nil => exact ⟨s, rfl, rfl, rfl, rfl, rfl, fun _ => rfl, (List.append_nil _).symm⟩
  | cons i is ih =>
    rw [List.forall_mem_cons] at hfits
    have hi : (BitVec.ofNat 24 i).toNat = i := by rw [BitVec.toNat_ofNat, Nat.mod_eq_of_lt hfits.1]
    have hfirst := exec_setsref_of_allowed hidle
      (hallowed s rfl (fun _ => .inr rfl) i List.mem_cons_self)
    rw [hi] at hfirst
    have hentry (k : Nat) : (answersOk [] (s.setSref i (f i))).srefAt k = if i = k then f i else s.srefAt k :=
      setSref_srefAt i (f i) s k
    obtain ⟨t, hexec, ht⟩ := ih (s := answersOk [] (s.setSref i (f i))) hidle hfits.2 fun u hu huk j hj =>
      hallowed u hu (fun k => by
        rcases huk k with h | h
        · exact .inl h
        · rw [hentry] at h
          split at h
          next hik => exact .inl (hik ▸ h)
          next => exact .inr h) j (List.mem_cons_of_mem i hj)
    refine ⟨t, by rw [List.map_cons, execAll_cons hfirst, hexec], ht.straps, ht.idle, ht.mode, ht.faults,
      fun k => ?_, ?_⟩
    · rw [ht.entries, hentry]
      by_cases hik : i = k
      · simp [hik]
      · simp [hik, Ne.symm hik]
    · rw [ht.responses, answersOk_responses, List.append_assoc]
      rfl

/-- Clearing an entry passes every check (R122). -/
theorem srefAllowed_noRef {s : State} {i : BitVec 24} (hi : i.toNat < s.straps.C) : SrefAllowed s i noRef := by
  have hnum : noRef.toInt = -1 := (toInt_eq_neg_one_iff noRef).2 rfl
  exact ⟨hi, by omega, by omega, by omega, fun h => by omega, fun h => by omega⟩

/-- An entry of a legal table passes every check while each entry is either written or clear: the channel it names
refers to none, and no channel refers to this one, which would have to be clear for that. -/
theorem srefAllowed_of_legalTable {s : State} {refs : List Word} (hlen : refs.length = s.straps.C)
    (hlegal : LegalTable refs) (hpart : ∀ k, k < s.straps.C → s.srefAt k = elem refs k ∨ s.srefAt k = noRef)
    {i : BitVec 24} (hi : i.toNat < s.straps.C) (href : 0 ≤ (elem refs i.toNat).toInt) :
    SrefAllowed s i (elem refs i.toNat) := by
  have hnum : noRef.toInt = -1 := (toInt_eq_neg_one_iff noRef).2 rfl
  have hclear {w : Word} (hw : 0 ≤ w.toInt) : w ≠ noRef := by rintro rfl; omega
  obtain ⟨-, hr, hother, hchain⟩ := (hlegal i.toNat (hlen ▸ hi)).resolve_left (hclear href)
  have hval := toInt_eq_toNat_of_nonneg href
  refine ⟨hi, by omega, by omega, by omega, fun _ => ?_, fun _ k hk _ hrefers => ?_⟩
  · rcases hpart _ (hlen ▸ hr) with h | h
    · rw [h, hchain]
    · exact h
  · rcases hpart k hk with h | h
    · rw [h] at hrefers
      have hk0 : 0 ≤ (elem refs k).toInt := by omega
      obtain ⟨-, -, -, hnone⟩ := (hlegal k (hlen ▸ hk)).resolve_left (hclear hk0)
      have hki : (elem refs k).toNat = i.toNat := by
        have := toInt_eq_toNat_of_nonneg hk0
        omega
      rw [hki] at hnone
      exact hclear href hnone
    · rw [h] at hrefers
      omega

/-- The channels that have a reference in the table. -/
def referring (refs : List Word) : List Nat :=
  (List.range refs.length).filter fun i => decide (0 ≤ (elem refs i).toInt)

theorem mem_referring_iff (refs : List Word) (i : Nat) :
    i ∈ referring refs ↔ i < refs.length ∧ 0 ≤ (elem refs i).toInt := by
  rw [referring, List.mem_filter, List.mem_range, decide_eq_true_iff]

theorem configure_eq (b : Bool) (refs : List Word) :
    configure b refs = .setxor b ::
      (((List.range refs.length).map fun i => .setsref (BitVec.ofNat 24 i) noRef) ++
        (referring refs).map fun i => .setsref (BitVec.ofNat 24 i) (elem refs i)) := rfl

section

variable {s : State} (hcounts : countsLegal s.straps = true) (hidle : s.estate = .idle)

include hcounts

/-- A channel index fits the argument of `SETSREF` (00_scope.md R9). -/
theorem channel_toNat {i : Nat} (hi : i < s.straps.C) : (BitVec.ofNat 24 i).toNat = i := by
  simp only [countsLegal, Bool.and_eq_true, decide_eq_true_eq] at hcounts
  rw [BitVec.toNat_ofNat]
  omega

theorem channel_lt {i : Nat} (hi : i < s.straps.C) : i < 2 ^ 24 :=
  channel_toNat hcounts hi ▸ (BitVec.ofNat 24 i).isLt

include hidle

theorem execAll_clearEntries {n : Nat} (hn : n = s.straps.C) :
    ∃ t, execAll ((List.range n).map fun i => .setsref (BitVec.ofNat 24 i) noRef) s = .next t ∧
      EntriesWritten (fun _ => noRef) (List.range n) s t := by
  have hchannel {i : Nat} (hi : i ∈ List.range n) : i < s.straps.C := hn ▸ List.mem_range.1 hi
  refine execAll_setsref (fun _ => noRef) hidle (fun i hi => channel_lt hcounts (hchannel hi))
    fun u hu _ i hi => srefAllowed_noRef ?_
  rw [hu, channel_toNat hcounts (hchannel hi)]
  exact hchannel hi

theorem execAll_setEntries {refs : List Word} (hlen : refs.length = s.straps.C) (hlegal : LegalTable refs)
    (hclear : ∀ k, k < s.straps.C → s.srefAt k = noRef) :
    ∃ t, execAll ((referring refs).map fun i => .setsref (BitVec.ofNat 24 i) (elem refs i)) s = .next t ∧
      EntriesWritten (elem refs) (referring refs) s t := by
  have hchannel {i : Nat} (hi : i ∈ referring refs) : i < s.straps.C := hlen ▸ ((mem_referring_iff refs i).1 hi).1
  refine execAll_setsref (elem refs) hidle (fun i hi => channel_lt hcounts (hchannel hi)) fun u hu huk i hi => ?_
  have hi24 := channel_toNat hcounts (hchannel hi)
  have hallowed := srefAllowed_of_legalTable (s := u) (i := BitVec.ofNat 24 i) (hu ▸ hlen) hlegal
    (fun k hk => (huk k).imp_right fun h => h.trans (hclear k (hu ▸ hk)))
    (by rw [hi24, hu]; exact hchannel hi) (by rw [hi24]; exact ((mem_referring_iff refs i).1 hi).2)
  rwa [hi24] at hallowed

end

/-- Settles O19: every entry can be cleared, and then every reference of a legal table set, in any order
(`execAll_setsref`). -/
theorem configureInstallsTable : Obligations.ConfigureInstallsTable := by
  intro s b refs hcounts hidle hlen hlegal
  obtain ⟨t, hclear, ht⟩ := execAll_clearEntries (s := answersOk [] (s.setXor b)) hcounts hidle hlen
  have hcleared {k : Nat} (hk : k < s.straps.C) : t.srefAt k = noRef :=
    (ht.entries k).trans (if_pos (List.mem_range.2 (hlen ▸ hk)))
  have hstraps : t.straps = s.straps := ht.straps
  obtain ⟨u, hset, hu⟩ := execAll_setEntries (hstraps.symm ▸ hcounts) (ht.idle.trans hidle)
    (hlen.trans (by rw [hstraps])) hlegal fun k hk => hcleared (hstraps ▸ hk)
  refine ⟨u, ?_, hu.mode.trans ht.mode, fun i hi => ?_, hu.faults.trans ht.faults, ?_⟩
  · rw [configure_eq, execAll_cons (exec_setxor_of_idle hidle b), execAll_append hclear, hset]
  · rw [hu.entries, hcleared hi]
    split
    next => rfl
    next hnot =>
      exact ((hlegal i (hlen ▸ hi)).resolve_right fun ⟨href, _⟩ =>
        hnot ((mem_referring_iff refs i).2 ⟨hlen ▸ hi, href⟩)).symm
  · rw [hu.responses, ht.responses, answersOk_responses, configure_eq, List.map_cons, List.map_append,
      List.map_map, List.map_map, List.append_assoc, List.append_assoc]
    rfl

end Sys2Proof.Machine
end

section
/-! PROOFS of the family 46_message_decode.md. The outcomes of `DPAY` and `RDOUT` (R291, R298), and the entries of `OUT`
that a successful `DPAY` writes (R299, R246). -/

namespace Sys2Proof.Machine

/-! ## `RDOUT` (R298) -/

/-- Settles O56, by the index being below `OUTN` or not. -/
theorem rdoutEffect : Obligations.RdoutEffect := by
  refine fun j s => ⟨fun h => ?_, fun h => ?_⟩
  · rw [exec_rdout_of_lt h, respond_eq]
    rfl
  · rw [exec, execRdout, if_pos h, raiseFault_eq, argWord_eq]
    rfl

/-! ## `DPAY` (R291) -/

theorem exec_dpay_of_nonpos {es : Word} (hes : es.toInt ≤ 0) (bytes : List Byte) (s : State) :
    exec (.dpay es bytes) s = .next (answersFault 0x11 es s) := by
  rw [exec, execDpay, if_pos hes, raiseFault_eq]
  rfl

/-- Settles O51: the parser writes the decode side only (`parsePayload_frame`). -/
theorem dpayCompletes : Obligations.DpayCompletes := by
  intro es bytes s u pos hes hparse
  rw [exec_dpay_of_parse_ok hes hparse, respond_eq]
  obtain ⟨d, o, q, rfl⟩ := parsePayload_frame _ _ _ _ _ hparse
  rfl

/-- Settles O50: by the sign of `es`, and by what the parser ends with. -/
theorem dpayOutcomes : Obligations.DpayOutcomes := by
  refine fun es bytes s => ⟨fun hes => exec_dpay_of_nonpos hes bytes s, fun hes => ?_⟩
  cases hparse : parsePayload bytes (min es.toNat s.straps.N) (decodeStart s) with
  | ok found =>
    obtain ⟨u, pos⟩ := found
    exact ⟨_, dpayCompletes es bytes s u pos hes hparse, fun _ _ => rfl, ⟨rfl, rfl⟩,
      ⟨rfl, rfl, rfl, rfl, rfl, rfl, rfl⟩, ⟨rfl, rfl⟩,
      .inl ⟨pos, (parsePayload_readsTo hparse).inside, rfl, rfl, rfl, rfl⟩⟩
  | error f =>
    obtain ⟨t, hexec, houtn, hdsum, hfaults, hresponses, hconfig, hencode, houtside⟩ :=
      dpayAborts_of_parse_error hes hparse
    exact ⟨t, hexec, hdsum, hconfig, hencode, houtside,
      .inr ⟨_, f.info, (parsePayload_error _ _ _ _ hparse).code, houtn, hfaults, hresponses⟩⟩

/-! ## The entries of `OUT` that the parser writes (R299, R246) -/

/-- Every value of `OUT` but those of the samples `0 .. n-1` of the channels `0 .. c-1` is as in `s`. -/
def ValuesKept (n c : Nat) (s t : State) : Prop := ∀ j i, n ≤ j ∨ c ≤ i → t.outValueAt j i = s.outValueAt j i

/-- Every quality word of `OUT` but those of the samples `0 .. n-1` of the channels `0 .. c-1` is as in `s`. -/
def QualityKept (n c : Nat) (s t : State) : Prop := ∀ j i, n ≤ j ∨ c ≤ i → t.outQualityAt j i = s.outQualityAt j i

theorem ValuesKept.refl (n c : Nat) (s : State) : ValuesKept n c s s := fun _ _ _ => rfl

theorem ValuesKept.trans {n c : Nat} {s t u : State} (h : ValuesKept n c s t) (h' : ValuesKept n c t u) :
    ValuesKept n c s u := fun j i hji => (h' j i hji).trans (h j i hji)

theorem QualityKept.refl (n c : Nat) (s : State) : QualityKept n c s s := fun _ _ _ => rfl

theorem QualityKept.trans {n c : Nat} {s t u : State} (h : QualityKept n c s t) (h' : QualityKept n c t u) :
    QualityKept n c s u := fun j i hji => (h' j i hji).trans (h j i hji)

section

variable {n c : Nat}

theorem reconstruct_valuesKept {j i : Nat} (hj : j < n) (hi : i < c) (r : Word) (s : State) :
    ValuesKept n c s (reconstruct j i r s) := by
  intro j' i' hout
  rw [reconstruct_outValueAt, if_neg]
  rintro ⟨rfl, rfl⟩
  omega

theorem rebuildChannel_valuesKept {i : Nat} (hi : i < c) {j : Nat} {zs : List U64} {s t : State}
    (h : rebuildChannel i j zs s = .ok t) (hzs : j + zs.length ≤ n) : ValuesKept n c s t := by
  induction zs generalizing j s with
  | nil => cases h; exact .refl n c _
  | cons z zs ih =>
    rw [List.length_cons] at hzs
    rw [rebuildChannel] at h
    split at h
    · cases h
    · exact (reconstruct_valuesKept (by omega) hi _ s).trans (ih h (by omega))

/-- The reader gives no more values than were asked for. -/
theorem s8UntilFrom_length_le {tab : List (Nat × Nat)} {B : List Byte} {pos m used : Nat} {vs : List U64}
    (h : s8UntilFrom tab B pos m = .ok (vs, used)) : vs.length ≤ m := by
  fun_induction s8UntilFrom tab B pos m generalizing vs used with
  | case1 => cases h; exact Nat.zero_le _
  | case2 _ _ _ _ _ _ _ _ _ _ _ _ _ _ _ hrest =>
    rename_i ih
    cases h
    have := ih hrest
    rw [List.length_append, List.length_take]
    omega
  | case3 => cases h
  | case4 => cases h; exact Nat.zero_le _
  | case5 => cases h

theorem parseS8_valuesKept {B : List Byte} {is : List Nat} (his : ∀ i ∈ is, i < c) {s t : State} {pos pos' : Nat}
    (h : parseS8 B n is s pos = .ok (t, pos')) : ValuesKept n c s t := by
  induction is generalizing s pos with
  | nil => cases h; exact .refl n c _
  | cons i is ih =>
    rw [List.forall_mem_cons] at his
    rw [parseS8] at h
    split at h
    next => cases h
    next zs used hread =>
      split at h
      next => cases h
      next u hchannel =>
        have hlen := s8UntilFrom_length_le hread
        exact (rebuildChannel_valuesKept his.1 hchannel (by omega)).trans (ih his.2 h)

theorem parseVarint_valuesKept {B : List Byte} {ps : List (Nat × Nat)} (hps : ∀ p ∈ ps, p.1 < n ∧ p.2 < c)
    {s t : State} {pos pos' : Nat} (h : parseVarint B ps s pos = .ok (t, pos')) : ValuesKept n c s t := by
  induction ps generalizing s pos with
  | nil => cases h; exact .refl n c _
  | cons p ps ih =>
    rw [List.forall_mem_cons] at hps
    rw [parseVarint] at h
    split at h
    next => cases h
    next r used _ => exact (reconstruct_valuesKept hps.1.1 hps.1.2 r s).trans (ih hps.2 h)

theorem parseValues_valuesKept {B : List Byte} {s t : State} {pos : Nat} (h : parseValues B n s = .ok (t, pos)) :
    ValuesKept n s.straps.C s t := by
  rw [parseValues] at h
  split at h
  · exact parseS8_valuesKept (fun i => List.mem_range.1) h
  · exact parseVarint_valuesKept (fun p => (mem_places n _ p.1 p.2).1) h

theorem foldl_fixupAt_valuesKept {ps : List (Nat × Nat)} (hps : ∀ p ∈ ps, p.1 < n ∧ p.2 < c) (s : State) :
    ValuesKept n c s (ps.foldl (fun u p => fixupAt p.1 p.2 u) s) := by
  induction ps generalizing s with
  | nil => exact .refl n c s
  | cons p ps ih =>
    rw [List.forall_mem_cons] at hps
    refine .trans (fun j i hout => ?_) (ih hps.2 (fixupAt p.1 p.2 s))
    rw [fixupAt_outValueAt, if_neg]
    rintro ⟨heq, -⟩
    cases heq
    omega

theorem fixup_valuesKept (n : Nat) (s : State) : ValuesKept n s.straps.C s (fixup n s) :=
  foldl_fixupAt_valuesKept (fun p => (mem_places n _ p.1 p.2).1) s

/-- A pair that is read within the message writes below `N` only (R246). -/
theorem writePair_qualityKept {i cur length : Nat} {s : State} (hi : i < c) (hcur : cur < s.straps.N)
    (hlength : length ≤ s.straps.N) (v : Word) : QualityKept s.straps.N c s (writePair i cur v length s) := by
  intro j i' hout
  rw [writePair_outQualityAt, if_neg]
  rintro ⟨rfl, hj⟩
  have hend : fillEnd s.straps cur length ≤ s.straps.N := by
    rw [fillEnd]
    split
    · exact Nat.le_refl _
    · cases s.straps.fill
      · exact hlength
      · exact Nat.min_le_right _ _
  omega

theorem expandRuns_qualityKept {B : List Byte} {i fuel cur : Nat} (hi : i < c) {s t : State} {pos pos' : Nat}
    (hn : n ≤ s.straps.N) (h : expandRuns B i n fuel cur s pos = .ok (t, pos')) : QualityKept s.straps.N c s t := by
  induction fuel generalizing cur s pos with
  | zero => cases h; exact .refl _ c _
  | succ fuel ih =>
    rw [expandRuns] at h
    split at h
    next => cases h; exact .refl _ c _
    next hcur =>
      split at h
      next => cases h
      next v l p _ =>
        split at h
        next => cases h
        next hlength =>
          have hpair := writePair_qualityKept (v := v) hi (show cur < s.straps.N by omega) (Nat.not_lt.1 hlength)
          have hstraps : (writePair i cur v l.toNat s).straps = s.straps := by rw [writePair_frame]
          have hrest := ih (s := writePair i cur v l.toNat s) (by rwa [hstraps]) h
          rw [hstraps] at hrest
          exact hpair.trans hrest

theorem expandAll_qualityKept {B : List Byte} {is : List Nat} (his : ∀ i ∈ is, i < c) {s t : State} {pos pos' : Nat}
    (hn : n ≤ s.straps.N) (h : expandAll B n is s pos = .ok (t, pos')) : QualityKept s.straps.N c s t := by
  induction is generalizing s pos with
  | nil => cases h; exact .refl _ c _
  | cons i is ih =>
    rw [List.forall_mem_cons] at his
    rw [expandAll] at h
    split at h
    next => cases h
    next u p hchannel =>
      obtain ⟨o, hframe⟩ := expandRuns_frame _ _ _ _ _ _ _ _ _ hchannel
      have hstraps : u.straps = s.straps := by rw [hframe]
      have hrest := ih his.2 (by rwa [hstraps]) h
      rw [hstraps] at hrest
      exact (expandRuns_qualityKept his.1 hn hchannel).trans hrest

end

/-- The parser writes the values of the samples it was asked for, and quality words below `N`. -/
theorem parsePayload_kept {B : List Byte} {n : Nat} {s t : State} {pos : Nat} (hn : n ≤ s.straps.N)
    (h : parsePayload B n s = .ok (t, pos)) :
    ValuesKept n s.straps.C s t ∧ QualityKept s.straps.N s.straps.C s t := by
  rw [parsePayload] at h
  split at h
  next => cases h
  next u p hvalues =>
    obtain ⟨d, o, hu⟩ := parseValues_frame _ _ _ _ _ hvalues
    obtain ⟨o', hfixup⟩ := fixup_frame n u
    obtain ⟨q, ht⟩ := expandAll_frame _ _ _ _ _ _ _ h
    have hustraps : u.straps = s.straps := by rw [hu]
    have hfstraps : (fixup n u).straps = s.straps := by rw [hfixup, hustraps]
    have hfixed := fixup_valuesKept n u
    have hquality := expandAll_qualityKept (c := s.straps.C) (fun i => List.mem_range.1) (hfstraps.symm ▸ hn) h
    rw [hustraps] at hfixed
    rw [hfstraps] at hquality
    refine ⟨fun j i hout => ?_, fun j i hout => ?_⟩
    · calc t.outValueAt j i = (fixup n u).outValueAt j i := by rw [ht]; rfl
        _ = s.outValueAt j i := ((parseValues_valuesKept hvalues).trans hfixed) j i hout
    · calc t.outQualityAt j i = (fixup n u).outQualityAt j i := hquality j i hout
        _ = s.outQualityAt j i := by rw [hfixup, hu]; rfl

/-- Settles O55: a `DPAY` that leaves the length in `OUTN` has read its payload through, and the parser writes these
entries only (`parsePayload_kept`). -/
theorem dpayWritesOnlyItsEntries : Obligations.DpayWritesOnlyItsEntries := by
  intro es bytes s t hexec _ hes houtn hN
  cases hparse : parsePayload bytes (min es.toNat s.straps.N) (decodeStart s) with
  | ok found =>
    obtain ⟨u, pos⟩ := found
    cases (dpayCompletes es bytes s u pos hes hparse).symm.trans hexec
    obtain ⟨d, o, q, rfl⟩ := parsePayload_frame _ _ _ _ _ hparse
    have hkept := parsePayload_kept (s := decodeStart s) (Nat.min_le_right _ _) hparse
    exact hkept
  | error f =>
    obtain ⟨t', hexec', houtn', -⟩ := dpayAborts_of_parse_error hes hparse
    cases hexec'.symm.trans hexec
    have hpos : 0 < es.toNat := by
      rw [toInt_eq_toNat_of_nonneg (Int.le_of_lt hes)] at hes
      omega
    omega

end Sys2Proof.Machine
end

section
/-! PROOFS of the family 45_message_encode.md. `ESAMP` in full (R261) and `ECANCEL` (R267). -/

namespace Sys2Proof.Machine

/-! ## The predictor and the push of one sample (43_predictor.md R201 to R203, 44_quality_rle.md R231, R232) -/

/-- The residual of R202, R203, written out for `D = 3`. -/
theorem residual_eq_nextResidual (s : State) (i : Nat) (v : Word) : residual s s.j i v = nextResidual s i v := by
  unfold nextResidual
  generalize s.j = j
  match j with
  | 0 | 1 | 2 => rfl
  | j + 3 =>
    have hlayers : min (j + 3 - 1) (Config.D - 1) = 2 := Nat.min_eq_right (by simp [Config.D])
    rw [residual, if_neg (Nat.succ_ne_zero _), hlayers]
    rfl

theorem takeSample_residuals_eq_nextResiduals (v q : List Word) (s : State) :
    (takeSample v q s).2 = nextResiduals s v := by
  rw [takeSample_residuals, nextResiduals]
  exact List.map_congr_left fun i _ => by rw [residual_eq_nextResidual, spatial_eq_spatialOf]

/-- What a push leaves in the run vector of its channel, for a state that has that vector. -/
theorem pushed_of_pushQuality {q : Word} {i : Nat} {s u : State}
    (hcount : u.runcntAt i = (pushQuality s.j i q s).runcntAt i)
    (hruns : ∀ r, u.runAt i r = (pushQuality s.j i q s).runAt i r) : Pushed q i s u := by
  unfold pushQuality at hcount hruns
  unfold Pushed
  by_cases hj : s.j = 0
  · simp only [if_pos hj, setRuncnt_runcntAt, setRuncnt_runAt, setRun_runAt, if_true, true_and] at hcount hruns ⊢
    exact ⟨hcount, fun r => by rw [hruns]; simp only [eq_comm]⟩
  · by_cases hv : (s.runAt i (s.runcntAt i - 1)).value = q
    · simp only [if_neg hj, if_pos hv, setRun_runcntAt, setRun_runAt, true_and] at hcount hruns ⊢
      refine ⟨hcount, fun r => ?_⟩
      rw [hruns]
      by_cases hr : s.runcntAt i - 1 = r
      · subst hr
        rw [if_pos rfl, if_pos rfl, hv]
      · rw [if_neg hr, if_neg (Ne.symm hr)]
    · simp only [if_neg hj, if_neg hv, setRuncnt_runcntAt, setRuncnt_runAt, setRun_runAt, if_true, true_and]
        at hcount hruns ⊢
      exact ⟨hcount, fun r => by rw [hruns]; simp only [eq_comm]⟩

theorem takeSample_afterSample (v q : List Word) (s : State) : AfterSample v q s (takeSample v q s).1 where
  frame := by
    obtain ⟨p, r, u, c, h⟩ := takeSample_frame v q s
    rw [h]
  layers k i := by
    rw [takeSample_prevAt, spatial_eq_spatialOf]
    match k with
    | 0 => by_cases hi : i < s.straps.C <;> simp [hi]
    | 1 => simp [Config.D, delta, firstDelta]
    | 2 => simp [Config.D, delta, secondDelta, firstDelta]
    | k + 3 => simp [Config.D]
  residuals i j := by
    rw [takeSample_resAt, residual_eq_nextResidual, spatial_eq_spatialOf]
    simp only [eq_comm]
  pushed i hi := by
    obtain ⟨hcount, hruns⟩ := takeSample_runs v q s i
    rw [if_pos hi] at hcount hruns
    exact pushed_of_pushQuality hcount hruns
  others i hi := by
    obtain ⟨hcount, hruns⟩ := takeSample_runs v q s i
    rw [if_neg (Nat.not_lt.2 hi)] at hcount hruns
    exact ⟨hcount, hruns⟩

/-! ## The commands -/

/-- Settles O44, by the message being full after the sample or not. -/
theorem esampEffect : Obligations.EsampEffect := by
  refine fun v q s => ⟨_, takeSample_afterSample v q s, fun hmore => ?_, fun hfull =>
    ⟨_, finalise_finalised _, ?_⟩⟩
  · rw [exec_esamp_of_ne hmore, respond_eq, takeSample_residuals_eq_nextResiduals]
  · rw [exec_esamp_of_eq hfull, respond_eq, takeSample_residuals_eq_nextResiduals, finalise_count,
      finalise_payload_eq_payloadFrom, takeSample_j, hfull]
    rfl

/-- Settles O46: `ECANCEL` clears the scratch state of the message. -/
theorem ecancelEffect : Obligations.EcancelEffect := fun s =>
  ⟨clearMessage s, congrArg Host.Outcome.next (respond_eq [] _), rfl, fun _ _ => rfl, fun _ => rfl⟩

end Sys2Proof.Machine
end

section
/-! PROOFS of the family 00_scope.md. Every command is answered once (R18; 30_encoding.md R95), and what that means for
the state machine (45_message_encode.md R268). -/

namespace Sys2Proof.Machine

/-- `t` is `s` after one more response: `OK`, with `FAULTS` kept, or one fault of the block, with its bit set. -/
def AnsweredOnce (s t : State) : Prop :=
  (∃ ws, t.responses = s.responses ++ [0#32 :: BitVec.ofNat 32 ws.length :: ws] ∧ t.faults = s.faults) ∨
    ∃ code ∈ blockCodes, ∃ info,
      t.responses = s.responses ++ [[BitVec.ofNat 32 (code * 2 ^ 24), 1#32, info]] ∧
        t.faults = s.faults ||| BitVec.ofNat 32 (2 ^ code)

section

variable {s u : State} (hresponses : u.responses = s.responses) (hfaults : u.faults = s.faults)

include hresponses hfaults

theorem AnsweredOnce.of_answersOk (ws : List Word) : AnsweredOnce s (answersOk ws u) :=
  .inl ⟨ws, by rw [answersOk_responses, hresponses], hfaults⟩

theorem AnsweredOnce.of_respond (ws : List Word) : AnsweredOnce s (respond ws u) :=
  respond_eq ws u ▸ .of_answersOk hresponses hfaults ws

end

theorem AnsweredOnce.of_answersFault (s : State) {code : Nat} (hcode : code ∈ blockCodes) (info : Word) :
    AnsweredOnce s (answersFault code info s) :=
  .inr ⟨code, hcode, info, rfl, rfl⟩

theorem AnsweredOnce.of_raiseFault (s : State) {f : FaultKind} (hf : f.code.toNat ∈ blockCodes) (info : Word) :
    AnsweredOnce s (raiseFault f info s) :=
  raiseFault_eq f info s ▸ .of_answersFault s hf info

/-! ## Each command -/

/-- The command ends, with one response. -/
def EndsAnswered (s : State) (o : Host.Outcome State Fault Refusal) : Prop := ∃ t, o = .next t ∧ AnsweredOnce s t

theorem answerUnpacked_endsAnswered (k : Nat) (vs : List U64) (s : State) :
    EndsAnswered s (answerUnpacked k vs s) := by
  rw [answerUnpacked_eq]
  refine ⟨_, rfl, ?_⟩
  split
  · exact .of_answersOk rfl rfl _
  · exact .of_answersFault s (by decide) _

theorem setxor_endsAnswered (b : Bool) (s : State) : EndsAnswered s (exec (.setxor b) s) := by
  rw [exec, execSetxor]
  split
  · exact ⟨_, rfl, .of_raiseFault s (by decide) _⟩
  · exact ⟨_, rfl, .of_respond rfl rfl _⟩

theorem setsref_endsAnswered (i : BitVec 24) (r : Word) (s : State) : EndsAnswered s (exec (.setsref i r) s) := by
  rw [exec, execSetsref]
  split
  · exact ⟨_, rfl, .of_raiseFault s (by decide) _⟩
  · split
    · exact ⟨_, rfl, .of_raiseFault s (by decide) _⟩
    · exact ⟨_, rfl, .of_respond rfl rfl _⟩

theorem rdcsr_endsAnswered (a : BitVec 24) (s : State) : EndsAnswered s (exec (.rdcsr a) s) := by
  rw [exec, execRdcsr]
  split
  · exact ⟨_, rfl, .of_respond rfl rfl _⟩
  · exact ⟨_, rfl, .of_raiseFault s (by decide) _⟩

/-- The packer's only fault is a value of 2^60 or more (42_simple8b.md R166). -/
theorem s8Pack_error {tab : List (Nat × Nat)} {vs : List U64} {f : Raised} (h : s8Pack tab vs = .error f) :
    f.kind = .overflow := by
  rw [s8Pack] at h
  split at h <;> cases h
  rfl

theorem s8pack_endsAnswered (vs : List U64) (s : State) : EndsAnswered s (exec (.s8pack vs) s) := by
  rw [exec, execS8pack]
  split
  next => exact ⟨_, rfl, .of_respond rfl rfl _⟩
  next f hpack => exact ⟨_, rfl, .of_raiseFault s (by rw [s8Pack_error hpack]; decide) _⟩

theorem s8unpkn_endsAnswered (n : Word) (ws : List U64) (s : State) : EndsAnswered s (exec (.s8unpkn n ws) s) := by
  rw [exec, execS8unpkn]
  split
  next =>
    split
    · exact ⟨_, rfl, .of_respond rfl rfl _⟩
    · exact ⟨_, rfl, .of_raiseFault s (by decide) _⟩
  next f hread => exact ⟨_, rfl, .of_raiseFault s (by rw [s8UntilFrom_error _ _ _ _ _ hread]; decide) _⟩

@[simp] theorem takeSample_faults (v q : List Word) (s : State) : (takeSample v q s).1.faults = s.faults := by
  obtain ⟨p, r, u, c, h⟩ := takeSample_frame v q s
  rw [h]

@[simp] theorem finalise_faults (s : State) : (finalise s).1.faults = s.faults := by
  obtain ⟨u, h⟩ := finalise_frame s
  rw [h]

theorem esamp_endsAnswered (v q : List Word) (s : State) : EndsAnswered s (exec (.esamp v q) s) := by
  by_cases hfull : s.j + 1 = s.straps.N
  · exact ⟨_, exec_esamp_of_eq hfull v q, .of_respond (by simp) (by simp) _⟩
  · exact ⟨_, exec_esamp_of_ne hfull v q, .of_respond (by simp) (by simp) _⟩

theorem eflush_endsAnswered (s : State) : EndsAnswered s (exec .eflush s) := by
  by_cases hj : s.j = 0
  · exact ⟨_, (eflushEffect s).1 hj, .of_answersFault s (by decide) _⟩
  · exact ⟨_, exec_eflush_of_ne hj, .of_respond (finalise_responses s) (finalise_faults s) _⟩

theorem dpay_endsAnswered (es : Word) (bytes : List Byte) (s : State) :
    EndsAnswered s (exec (.dpay es bytes) s) := by
  obtain ⟨hrefused, hruns⟩ := dpayOutcomes es bytes s
  rcases lt_or_ge 0 es.toInt with hes | hes
  · obtain ⟨t, hexec, -, -, -, -, houtcome⟩ := hruns hes
    refine ⟨t, hexec, ?_⟩
    rcases houtcome with ⟨consumed, -, -, hfaults, -, hresponses⟩ | ⟨code, info, hcode, -, hfaults, hresponses⟩
    · exact .inl ⟨[_, _], hresponses, hfaults⟩
    · exact .inr ⟨code, by rcases hcode with rfl | rfl | rfl <;> decide, info, hresponses, hfaults⟩
  · exact ⟨_, hrefused hes, .of_answersFault s (by decide) _⟩

theorem rdout_endsAnswered (j : BitVec 24) (s : State) : EndsAnswered s (exec (.rdout j) s) := by
  rw [exec, execRdout]
  split
  · exact ⟨_, rfl, .of_raiseFault s (by decide) _⟩
  · exact ⟨_, rfl, .of_respond rfl rfl _⟩

/-- Every command ends, with one response, in every state. -/
theorem exec_endsAnswered (i : Instr) (s : State) : EndsAnswered s (exec i s) := by
  cases i with
  | setxor b => exact setxor_endsAnswered b s
  | setsref i r => exact setsref_endsAnswered i r s
  | rdcsr a => exact rdcsr_endsAnswered a s
  | s8pack vs => exact s8pack_endsAnswered vs s
  | s8unpk ws => exact answerUnpacked_endsAnswered _ _ s
  | s8unpkn n ws => exact s8unpkn_endsAnswered n ws s
  | esamp v q => exact esamp_endsAnswered v q s
  | eflush => exact eflush_endsAnswered s
  | ecancel => exact ⟨_, rfl, .of_respond rfl rfl []⟩
  | dpay es bytes => exact dpay_endsAnswered es bytes s
  | rdout j => exact rdout_endsAnswered j s
  | _ => exact answerUnpacked_endsAnswered _ _ s

/-! ## The step -/

/-- Settles O10: a packet that is no command is refused with `IllegalCommand`, and every command is answered
(`exec_endsAnswered`). -/
theorem everyCommandAnswersOnce : Obligations.EveryCommandAnswersOnce := by
  intro s e rest hstraps hport
  suffices ∃ t, step s = .next t ∧ t.port = rest ∧ t.straps = s.straps ∧ AnsweredOnce s t by
    obtain ⟨t, hstep, htport, htstraps, ⟨ws, hresponses, hfaults⟩ | ⟨code, hcode, info, hresponses, hfaults⟩⟩ := this
    · exact ⟨t, _, hstep, htport, htstraps, hresponses, .inl ⟨ws, rfl, hfaults⟩⟩
    · exact ⟨t, _, hstep, htport, htstraps, hresponses, .inr ⟨code, hcode, info, rfl, hfaults⟩⟩
  cases hdecode : decode s.straps.C e with
  | ok i =>
    obtain ⟨t, hexec, hanswer⟩ := exec_endsAnswered i { s with port := rest }
    obtain ⟨htstraps, htport⟩ := (exec_changed hexec).sameOutside
    exact ⟨t, (step_of_decode_ok hstraps hport hdecode).trans hexec, htport, htstraps, hanswer⟩
  | error f =>
    exact ⟨_, step_of_decode_error hstraps hport hdecode, rfl, rfl, .inr ⟨0x10, by decide, _, rfl, rfl⟩⟩

/-- Settles O5, by what the decoder answers (`step_of_decode_ok`). -/
theorem stepRunsDecodedInstruction : Obligations.StepRunsDecodedInstruction :=
  ⟨fun _ _ _ _ hstraps hport hdecode => step_of_decode_ok hstraps hport hdecode,
    fun s nbits w _ hstraps hdecode => step_of_decode_ok (s := s.withFetchWord nbits w) hstraps rfl hdecode⟩

/-! ## The state machine (45_message_encode.md R268) -/

theorem finalise_estate_j (s : State) : (finalise s).1.estate = .idle ∧ (finalise s).1.j = 0 := by
  obtain ⟨u, h⟩ := finalise_frame s
  rw [h]
  exact ⟨rfl, rfl⟩

theorem takeSample_estate (v q : List Word) (s : State) : (takeSample v q s).1.estate = .accum := by
  obtain ⟨p, r, u, c, h⟩ := takeSample_frame v q s
  rw [h]

theorem esamp_estate_j {v q : List Word} {s t : State} (h : exec (.esamp v q) s = .next t) :
    if s.j + 1 = s.straps.N then t.estate = .idle ∧ t.j = 0 else t.estate = .accum ∧ t.j = s.j + 1 := by
  split
  next hfull =>
    cases (exec_esamp_of_eq hfull v q).symm.trans h
    exact finalise_estate_j _
  next hmore =>
    cases (exec_esamp_of_ne hmore v q).symm.trans h
    exact ⟨takeSample_estate v q s, takeSample_j v q s⟩

theorem eflush_estate_j {s t : State} (hs : Sequenced s) (h : exec .eflush s = .next t) :
    t.estate = .idle ∧ t.j = 0 := by
  by_cases hj : s.j = 0
  · cases ((eflushEffect s).1 hj).symm.trans h
    exact ⟨hs.2.trans (if_pos hj), hj⟩
  · cases (exec_eflush_of_ne hj).symm.trans h
    exact finalise_estate_j s

/-- Settles O47: the encode commands one by one; no other command touches the encode side (`exec_changed`). -/
theorem encodeStateTransitions : Obligations.EncodeStateTransitions := by
  intro i s hs
  obtain ⟨t, hexec, -⟩ := exec_endsAnswered i s
  have hkept (hi : isEncode i = false) : t.estate = s.estate ∧ t.j = s.j := by
    obtain ⟨hestate, hj, -⟩ := (exec_changed hexec).sameEncodeSide hi
    exact ⟨hestate, hj⟩
  refine ⟨t, hexec, ?_⟩
  cases i with
  | esamp v q => exact esamp_estate_j hexec
  | eflush => exact eflush_estate_j hs hexec
  | ecancel => cases hexec; exact ⟨rfl, rfl⟩
  | _ => exact hkept rfl

end Sys2Proof.Machine
end

section
/-! PROOFS of the family 70_reset_and_hazards.md. Reset (R390, R391; 10_state.md R38), the first commands after it
(R392), and the invariant there (10_state.md R37). -/

namespace Sys2Proof.Machine

/-! ## The step that takes a reset (R390) -/

theorem step_of_empty_port {s : State} (hstraps : strapsLegal s.straps = true) (hport : s.port = []) :
    step s = .next s := by
  rw [step, if_pos hstraps, hport]

theorem step_of_reset {s : State} {p : Pins} {rest : List Input} (hstraps : strapsLegal s.straps = true)
    (hport : s.port = .reset p :: rest ∨ ∃ e, s.port = .cutShort e p :: rest) :
    step s = resetWith p { s with port := rest } := by
  rcases hport with hport | ⟨e, hport⟩ <;> rw [step, if_pos hstraps, hport] <;> rfl

/-- Settles O6: the straps that the reset samples are those of the block, or not. -/
theorem resetGivesResetValues : Obligations.ResetGivesResetValues := by
  refine ⟨fun s hstraps hport => step_of_empty_port hstraps hport, fun s p rest hstraps hport => ?_⟩
  rw [step_of_reset hstraps hport, resetWith]
  refine ⟨fun hchanged => if_neg hchanged, fun hsame => ⟨_, if_pos hsame, rfl, rfl, rfl, rfl, rfl, rfl, rfl, rfl,
    fun _ => rfl, fun _ _ => rfl, fun _ => rfl, fun _ _ => rfl⟩⟩

/-! ## The first commands (R392) -/

/-- Without a spatial reference, the residual of a message's first sample is its value. -/
theorem nextResiduals_takeReset (s : State) (v : List Word) :
    nextResiduals (takeReset s) v = (List.range s.straps.C).map fun i => elem v i := by
  have hnoRef : ¬ 0 ≤ noRef.toInt := by rw [(toInt_eq_neg_one_iff noRef).2 rfl]; decide
  have hfirst (i : Nat) : spatialOf (takeReset s).srefAt v i = elem v i := if_neg hnoRef
  rw [nextResiduals]
  simp only [hfirst]
  rfl

/-- Settles O7, by the effects of the commands in the idle state that reset leaves. -/
theorem firstCommandsAfterReset : Obligations.FirstCommandsAfterReset := by
  intro s _
  refine ⟨(eflushEffect _).1 rfl, fun j => (rdoutEffect j _).2 (Nat.zero_le _), fun b => (setxorEffect b _).1 rfl,
    congrArg Host.Outcome.next (respond_eq [] _), fun hN v q => ?_⟩
  have hmore : (takeReset s).j + 1 ≠ (takeReset s).straps.N := Nat.ne_of_lt hN
  refine ⟨_, exec_esamp_of_ne hmore v q, takeSample_j v q _, takeSample_estate v q _, ?_⟩
  rw [respond_eq, answersOk_responses, takeSample_responses, takeSample_residuals_eq_nextResiduals,
    nextResiduals_takeReset, List.length_append, List.length_map, List.length_range]
  rfl

/-! ## The invariant (10_state.md R37) -/

theorem N_pos_of_strapsLegal {p : Straps} (h : strapsLegal p = true) : 0 < p.N := by
  simp only [strapsLegal, countsLegal, Bool.and_eq_true, decide_eq_true_eq] at h
  omega

theorem inv_resetOf {p : Straps} (h : strapsLegal p = true) (port : List Input) (responses : List Packet)
    (outEpoch memEpoch : Nat) : Inv (State.resetOf p port responses outEpoch memEpoch) where
  straps := h
  sequenced := ⟨N_pos_of_strapsLegal h, rfl⟩
  runs := fun _ => rfl
  decode := ⟨fun _ _ => rfl, Nat.zero_le _⟩
  spatial := fun _ => .inl rfl
  faults := BitVec.zero_and
  memory := rfl

/-- Settles O8: what reset leaves is idle and empty (`inv_resetOf`). -/
theorem invariantAtReset : Obligations.InvariantAtReset :=
  ⟨inv_resetOf (by decide) _ _ _ _, fun _ h => inv_resetOf h _ _ _ _⟩

end Sys2Proof.Machine
end

section
/-! PROOFS of the family 47_host_contract.md. A message that the host builds opens again (R320 to R323, R329). -/

namespace Sys2Proof.Machine

/-- The first timestamp is read back (00_scope.md R17). -/
theorem readBe64_toBe64_append (w : U64) (S : List Byte) : readBe64 (toBe64 w ++ S) = w := be64_toBe64 w

section

variable (deflate : List Byte → List Byte) {inflate : List Byte → Option (List Byte)} (p : Straps)
  {streamId : List Byte} (firstT : U64) (es : Word) (payload : List Byte)

theorem buildMessage_eq :
    buildMessage deflate p streamId firstT es payload =
      streamId ++ (toBe64 firstT ++ (svPut es ++ wrapPayload deflate p payload)) := by
  rw [buildMessage, messageHeader, List.append_assoc, List.append_assoc]

variable (hid : streamId.length = 16)

include hid

theorem buildMessage_length :
    25 ≤ (buildMessage deflate p streamId firstT es payload).length := by
  have hpos := uvPutUpTo_length_pos 4 (zzEnc es)
  rw [buildMessage_eq, List.length_append, List.length_append, List.length_append, toBe64_length, svPut, uvPut]
  omega

theorem take_id_buildMessage : (buildMessage deflate p streamId firstT es payload).take 16 = streamId := by
  rw [buildMessage_eq, List.take_left' hid]

theorem drop_id_buildMessage :
    (buildMessage deflate p streamId firstT es payload).drop 16 =
      toBe64 firstT ++ (svPut es ++ wrapPayload deflate p payload) := by
  rw [buildMessage_eq, List.drop_left' hid]

/-- The count is read back from behind the id and the timestamp (41_zigzag_varint.md R148). -/
theorem svGet_buildMessage :
    svGet (buildMessage deflate p streamId firstT es payload) 24 = .ok (es, (svPut es).length) := by
  have hread := (varintRoundTrip es (streamId ++ toBe64 firstT) (wrapPayload deflate p payload)).2
  rwa [List.length_append, hid, toBe64_length] at hread

theorem drop_header_buildMessage :
    (buildMessage deflate p streamId firstT es payload).drop (24 + (svPut es).length) =
      wrapPayload deflate p payload := by
  rw [buildMessage, List.drop_left']
  rw [messageHeader, List.length_append, List.length_append, hid, toBe64_length]

theorem openMessage_buildMessage (hinv : ∀ b, inflate (deflate b) = some b) :
    openMessage inflate p streamId (buildMessage deflate p streamId firstT es payload) =
      .ok (firstT, es, payload) := by
  have hlen := buildMessage_length deflate p firstT es payload hid
  have htake := take_id_buildMessage deflate p firstT es payload hid
  rw [openMessage, if_neg (Nat.not_lt.2 hlen), if_neg (not_not.2 htake),
    svGet_buildMessage deflate p firstT es payload hid]
  simp only [drop_header_buildMessage deflate p firstT es payload hid,
    drop_id_buildMessage deflate p firstT es payload hid, readBe64_toBe64_append, wrapPayload]
  cases deflateMode p with
  | false => rfl
  | true => simp only [if_true, hinv]

end

theorem openMessage_of_short (inflate : List Byte → Option (List Byte)) (p : Straps) (streamId : List Byte)
    {m : List Byte} (h : m.length < 25) : openMessage inflate p streamId m = .error .stateViolation := by
  rw [openMessage, if_pos h]

/-- Settles O58: the checks of R329 in their order. -/
theorem hostMessageRoundTrip : Obligations.HostMessageRoundTrip := by
  intro deflate inflate p streamId other firstT es payload hinv hid m
  refine ⟨openMessage_buildMessage deflate p firstT es payload hid hinv, fun hother => ?_, fun k hk => ?_⟩
  · have hlen := buildMessage_length deflate p firstT es payload hid
    have htake : m.take 16 ≠ other := by
      rw [take_id_buildMessage deflate p firstT es payload hid]
      exact Ne.symm hother
    rw [openMessage, if_neg (Nat.not_lt.2 hlen), if_pos htake]
  · exact openMessage_of_short inflate p streamId (Nat.lt_of_le_of_lt (List.length_take_le _ _) hk)

end Sys2Proof.Machine
end

section
/-! PROOFS of the family 10_state.md. Every step keeps the invariant between commands (R37): each of its parts is kept
by every command, and reset establishes it. -/

namespace Sys2Proof.Machine

/-! ## Live runs (R37 (3)) -/

/-- The runs `L` describe `n` samples: no run is empty, the lengths add up, and neighbours differ in their value. -/
structure Accumulated (L : List Run) (n : Nat) : Prop where
  pos : ∀ x ∈ L, 1 ≤ x.len.toNat
  sum : (L.map fun x => x.len.toNat).sum = n
  changes : (L.map Run.value).IsChain (· ≠ ·)

theorem runsAccumulate_of_accumulated {s : State} {i : Nat} (hj : s.j ≠ 0) (h : Accumulated (liveRuns s i) s.j) :
    RunsAccumulate s i := by
  obtain ⟨hpos, hsum, hchanges⟩ := h
  have hget {r : Nat} (hr : r < s.runcntAt i) : s.runAt i r ∈ liveRuns s i :=
    List.mem_map_of_mem (List.mem_range.2 hr)
  refine ⟨Nat.pos_of_ne_zero fun hnone => hj ?_, ?_, fun r hr => hpos _ (hget hr), ?_, fun r hr => ?_⟩
  · rw [← hsum, liveRuns, hnone]
    rfl
  · rw [← liveRuns_length, ← hsum]
    simpa using List.card_nsmul_le_sum ((liveRuns s i).map fun x => x.len.toNat) 1 (by simpa using hpos)
  · rw [runLengths_eq, hsum]
  · rw [List.isChain_iff_getElem] at hchanges
    simpa [liveRuns] using hchanges r (by simpa using hr)

theorem RunsAccumulate.accumulated {s : State} {i : Nat} (h : RunsAccumulate s i) :
    Accumulated (liveRuns s i) s.j := by
  obtain ⟨-, -, hpos, hsum, hchanges⟩ := h
  refine ⟨fun x hx => ?_, by rw [← hsum, runLengths_eq], List.isChain_iff_getElem.2 fun r hr => ?_⟩
  · obtain ⟨r, hr, rfl⟩ := List.mem_map.1 hx
    exact hpos r (List.mem_range.1 hr)
  · rw [List.length_map, liveRuns_length] at hr
    simpa [liveRuns] using hchanges r hr

/-- The run of one sample. -/
theorem accumulated_singleton (q : Word) : Accumulated [⟨q, 1⟩] 1 :=
  ⟨fun _ hx => List.mem_singleton.1 hx ▸ Nat.le_refl 1, rfl, .singleton _⟩

/-- One more sample: the last run grows, or a new one follows it. -/
theorem Accumulated.push {R : List Run} {x : Run} {n : Nat} (h : Accumulated (R ++ [x]) n) (hn : n + 1 < 2 ^ 32)
    (q : Word) :
    Accumulated (R ++ if x.value = q then [⟨x.value, x.len + 1⟩] else [x, ⟨q, 1⟩]) (n + 1) := by
  obtain ⟨hpos, hsum, hchanges⟩ := h
  simp only [List.forall_mem_append, List.forall_mem_singleton] at hpos
  rw [List.map_append, List.sum_append, List.map_singleton, List.sum_singleton] at hsum
  split
  next =>
    have hlen : (x.len + 1).toNat = x.len.toNat + 1 := by
      have hfits : x.len.toNat + 1 < 2 ^ 32 := by omega
      bv_omega
    refine ⟨?_, ?_, ?_⟩
    · simp only [List.forall_mem_append, List.forall_mem_singleton, hlen]
      exact ⟨hpos.1, Nat.le_add_left _ _⟩
    · rw [List.map_append, List.sum_append, List.map_singleton, List.sum_singleton, hlen]
      omega
    · rwa [List.map_append] at hchanges ⊢
  next hnew =>
    rw [List.append_cons]
    refine ⟨?_, ?_, ?_⟩
    · simp only [List.forall_mem_append, List.forall_mem_singleton]
      exact ⟨hpos, Nat.le_refl 1⟩
    · simp only [List.map_append, List.sum_append, List.map_singleton, List.sum_singleton, hsum]
      rfl
    · rw [List.map_append, List.isChain_append]
      refine ⟨hchanges, .singleton _, fun a ha b hb => ?_⟩
      obtain rfl : x.value = a := by simpa using ha
      obtain rfl : q = b := by simpa using hb
      exact hnew

/-! ## The encode side (R37 (1) to (3)) -/

theorem Sequenced.exec {i : Instr} {s t : State} (h : Sequenced s) (hexec : exec i s = .next t) : Sequenced t := by
  obtain ⟨hj, hestate⟩ := id h
  have hstraps : t.straps = s.straps := (exec_changed hexec).sameOutside.1
  have hidle (ht : t.estate = .idle ∧ t.j = 0) : Sequenced t :=
    ⟨by rw [ht.2, hstraps]; omega, by rw [ht.1, if_pos ht.2]⟩
  have hkept (ht : t.estate = s.estate ∧ t.j = s.j) : Sequenced t :=
    ⟨by rw [ht.2, hstraps]; exact hj, by rw [ht.1, ht.2]; exact hestate⟩
  obtain ⟨t', hexec', ht⟩ := encodeStateTransitions i s h
  cases hexec'.symm.trans hexec
  cases i with
  | esamp v q =>
    simp only at ht
    split at ht
    next => exact hidle ht
    next hmore =>
      obtain ⟨hestate', hj'⟩ := ht
      exact ⟨by rw [hj', hstraps]; omega, by rw [hestate', hj', if_neg (Nat.succ_ne_zero _)]⟩
  | eflush | ecancel => exact hidle ht
  | _ => exact hkept ht

/-- A state between messages, whose run counts are cleared (R262, R267). -/
theorem runVectors_of_cleared {s : State} (hj : s.j = 0) (hcounts : ∀ i, s.runcntAt i = 0) : RunVectors s := by
  rw [RunVectors, if_pos hj]
  exact hcounts

theorem RunVectors.takeSample {s : State} (h : RunVectors s) (hfits : s.j + 1 < 2 ^ 32) (v q : List Word) :
    RunVectors (takeSample v q s).1 := by
  have hcount : (Machine.takeSample v q s).1.j = s.j + 1 := takeSample_j v q s
  rw [RunVectors, if_neg (by rw [hcount]; exact Nat.succ_ne_zero _), takeSample_straps]
  refine fun i hi => runsAccumulate_of_accumulated (by rw [hcount]; exact Nat.succ_ne_zero _) ?_
  rw [liveRuns_takeSample v q hi, hcount]
  by_cases hj : s.j = 0
  · rw [hj, liveRuns_pushQuality_zero]
    exact accumulated_singleton _
  · rw [RunVectors, if_neg hj] at h
    have hlive := (h i hi).accumulated
    rcases List.eq_nil_or_concat' (liveRuns s i) with hnil | ⟨R, x, hruns⟩
    · rw [hnil] at hlive
      exact absurd hlive.sum.symm hj
    · rw [liveRuns_pushQuality hj hruns]
      exact (hruns ▸ hlive).push hfits _

theorem RunVectors.esamp {s t : State} {v q : List Word} (h : RunVectors s) (hfits : s.j + 1 < 2 ^ 32)
    (hexec : Machine.exec (.esamp v q) s = .next t) : RunVectors t := by
  by_cases hfull : s.j + 1 = s.straps.N
  · cases (exec_esamp_of_eq hfull v q).symm.trans hexec
    have hdone := finalise_finalised (Machine.takeSample v q s).1
    exact runVectors_of_cleared (finalise_estate_j _).2 hdone.counts
  · cases (exec_esamp_of_ne hfull v q).symm.trans hexec
    exact h.takeSample hfits v q

theorem RunVectors.eflush {s t : State} (h : RunVectors s) (hexec : Machine.exec .eflush s = .next t) :
    RunVectors t := by
  by_cases hj : s.j = 0
  · cases ((eflushEffect s).1 hj).symm.trans hexec
    exact h
  · cases (exec_eflush_of_ne hj).symm.trans hexec
    exact runVectors_of_cleared (finalise_estate_j s).2 (finalise_finalised s).counts

theorem RunVectors.exec {i : Instr} {s t : State} (h : RunVectors s) (hfits : s.j + 1 < 2 ^ 32)
    (hexec : exec i s = .next t) : RunVectors t := by
  cases exec_changed hexec with
  | answered hc | decoded _ hc | configured _ _ hc => rw [hc]; exact h
  | encoded hi _ =>
    cases i with
    | esamp v q => exact h.esamp hfits hexec
    | eflush => exact h.eflush hexec
    | ecancel => cases hexec; exact runVectors_of_cleared rfl fun _ => rfl
    | _ => cases hi

/-! ## The decode side (R37 (4), (5)) -/

theorem DecodeIdle.dpay {es : Word} {bytes : List Byte} {s t : State} (h : DecodeIdle s)
    (hexec : Machine.exec (.dpay es bytes) s = .next t) : DecodeIdle t := by
  obtain ⟨hrefused, hruns⟩ := dpayOutcomes es bytes s
  rcases lt_or_ge 0 es.toInt with hes | hes
  · obtain ⟨t', hexec', hdsum, -, -, ⟨hstraps, -⟩, houtcome⟩ := hruns hes
    cases hexec'.symm.trans hexec
    refine ⟨hdsum, ?_⟩
    rcases houtcome with ⟨_, -, houtn, -⟩ | ⟨_, _, -, houtn, -⟩
    · rw [houtn, hstraps]
      exact Nat.min_le_right _ _
    · rw [houtn]
      exact Nat.zero_le _
  · cases (hrefused hes).symm.trans hexec
    exact h

theorem DecodeIdle.exec {i : Instr} {s t : State} (h : DecodeIdle s) (hexec : exec i s = .next t) :
    DecodeIdle t := by
  cases exec_changed hexec with
  | answered hc | encoded _ hc | configured _ _ hc => rw [hc]; exact h
  | decoded hi _ =>
    cases i with
    | dpay es bytes => exact h.dpay hexec
    | _ => cases hi

/-! ## The configuration (R37 (6)) -/

/-- An entry that passes the checks of R122 keeps the table legal: the channel it names refers to none, and if some
channel refers to this one, the entry is cleared. -/
theorem SpatialLegal.setSref {s : State} (h : SpatialLegal s) {i : BitVec 24} {r : Word}
    (hr : SrefAllowed s i r) : SpatialLegal (s.setSref i.toNat r) := by
  have hlower := hr.lower
  have hcleared (hneg : ¬ 0 ≤ r.toInt) : r = noRef := (toInt_eq_neg_one_iff r).1 (by omega)
  intro k
  simp only [setSref_srefAt, setSref_straps]
  by_cases hki : i.toNat = k
  · subst hki
    rw [if_pos rfl]
    by_cases href : 0 ≤ r.toInt
    · have hnum := toInt_eq_toNat_of_nonneg href
      have hupper := hr.upper
      have hother := hr.other
      refine .inr ⟨hr.channel, href, by omega, by omega, ?_⟩
      rw [if_neg (by omega), hr.chain href]
    · exact .inl (hcleared href)
  · rw [if_neg hki]
    rcases h k with hnone | ⟨hk, href, hlt, hne, hchain⟩
    · exact .inl hnone
    · refine .inr ⟨hk, href, hlt, hne, ?_⟩
      split
      next heq =>
        refine hcleared fun hpos => hr.free hpos k hk (Ne.symm hki) ?_
        rw [toInt_eq_toNat_of_nonneg href, heq]
      next => exact hchain

theorem SpatialLegal.setsref {i : BitVec 24} {r : Word} {s t : State} (h : SpatialLegal s)
    (hexec : Machine.exec (.setsref i r) s = .next t) : SpatialLegal t := by
  by_cases hidle : s.estate = .idle
  · rw [exec_setsref_of_idle hidle] at hexec
    cases hchecks : srefOffence i r s with
    | some info =>
      rw [hchecks] at hexec
      cases hexec
      exact h
    | none =>
      rw [hchecks] at hexec
      cases hexec
      exact h.setSref ((srefOffence_eq_none_iff i r s).1 hchecks)
  · have hsame := (exec_changed hexec).sameConfig (.inr hidle)
    have hstraps : t.straps = s.straps := (exec_changed hexec).sameOutside.1
    have hrefs : t.srefAt = s.srefAt := by funext k; simp only [State.srefAt, hsame.2]
    rw [SpatialLegal, hrefs, hstraps]
    exact h

theorem SpatialLegal.exec {i : Instr} {s t : State} (h : SpatialLegal s) (hexec : exec i s = .next t) :
    SpatialLegal t := by
  cases exec_changed hexec with
  | answered hc | encoded _ hc | decoded _ hc => rw [hc]; exact h
  | configured hi hidle _ =>
    cases i with
    | setxor b => cases (exec_setxor_of_idle hidle b).symm.trans hexec; exact h
    | setsref k r => exact h.setsref hexec
    | _ => cases hi

/-! ## `FAULTS` (R25) -/

theorem FaultBitsKnown.answered {s t : State} (h : FaultBitsKnown s) (ht : AnsweredOnce s t) : FaultBitsKnown t := by
  have hknown : ∀ code ∈ blockCodes, BitVec.ofNat 32 (2 ^ code) &&& ~~~0x00070034#32 = 0 := by decide
  rw [FaultBitsKnown]
  rcases ht with ⟨_, -, hfaults⟩ | ⟨code, hcode, _, -, hfaults⟩
  · rw [hfaults]
    exact h
  · rw [FaultBitsKnown] at h
    rw [hfaults, BitVec.and_or_distrib_right, h, hknown code hcode]
    rfl

/-! ## The canonical form of the arrays (log 17) -/

theorem wf_esamp {v q : List Word} {s t : State} (h : Memory.wf s = true) (hexec : exec (.esamp v q) s = .next t) :
    Memory.wf t = true := by
  by_cases hfull : s.j + 1 = s.straps.N
  · cases (exec_esamp_of_eq hfull v q).symm.trans hexec
    exact wf_respond _ (wf_finalise (wf_takeSample v q h))
  · cases (exec_esamp_of_ne hfull v q).symm.trans hexec
    exact wf_respond _ (wf_takeSample v q h)

theorem wf_eflush {s t : State} (h : Memory.wf s = true) (hexec : exec .eflush s = .next t) : Memory.wf t = true := by
  by_cases hj : s.j = 0
  · cases ((eflushEffect s).1 hj).symm.trans hexec
    exact h
  · cases (exec_eflush_of_ne hj).symm.trans hexec
    exact wf_respond _ (wf_finalise h)

theorem wf_dpay {es : Word} {bytes : List Byte} {s t : State} (h : Memory.wf s = true)
    (hexec : exec (.dpay es bytes) s = .next t) : Memory.wf t = true := by
  rcases lt_or_ge 0 es.toInt with hes | hes
  · rw [exec_dpay_of_pos hes] at hexec
    cases hparse : parsePayload bytes (min es.toNat s.straps.N) (decodeStart s) with
    | error f =>
      rw [hparse] at hexec
      cases hexec
      exact wf_raiseFault _ _ (wf_decodeAborted h)
    | ok found =>
      rw [hparse] at hexec
      cases hexec
      exact wf_respond _ (wf_setOutn _ (wf_clearDsum (wf_parsePayload _ _ (wf_clearDsum (wf_setOutn 0 h)) hparse)))
  · cases (exec_dpay_of_nonpos hes bytes s).symm.trans hexec
    exact h

theorem wf_setsref {i : BitVec 24} {r : Word} {s t : State} (h : Memory.wf s = true) (hidle : s.estate = .idle)
    (hexec : exec (.setsref i r) s = .next t) : Memory.wf t = true := by
  rw [exec_setsref_of_idle hidle] at hexec
  cases hexec
  split
  · exact h
  · exact wf_setSref i.toNat r h

theorem wf_exec {i : Instr} {s t : State} (h : Memory.wf s = true) (hexec : exec i s = .next t) :
    Memory.wf t = true := by
  cases exec_changed hexec with
  | answered hc => rw [hc]; exact h
  | encoded hi _ =>
    cases i with
    | esamp v q => exact wf_esamp h hexec
    | eflush => exact wf_eflush h hexec
    | ecancel => cases hexec; exact wf_respond [] (wf_clearMessage h)
    | _ => cases hi
  | decoded hi _ =>
    cases i with
    | dpay es bytes => exact wf_dpay h hexec
    | _ => cases hi
  | configured hi hidle _ =>
    cases i with
    | setxor b => cases (exec_setxor_of_idle hidle b).symm.trans hexec; exact wf_setXor b h
    | setsref k r => exact wf_setsref h hidle hexec
    | _ => cases hi

/-! ## The step -/

theorem Inv.count_fits {s : State} (h : Inv s) : s.j + 1 < 2 ^ 32 := by
  obtain ⟨hj, -⟩ := h.sequenced
  have hN := N_lt_of_strapsLegal h.straps
  omega

theorem Inv.exec {i : Instr} {s t : State} (h : Inv s) (hexec : exec i s = .next t) : Inv t where
  straps := by rw [(exec_changed hexec).sameOutside.1]; exact h.straps
  sequenced := h.sequenced.exec hexec
  runs := h.runs.exec h.count_fits hexec
  decode := h.decode.exec hexec
  spatial := h.spatial.exec hexec
  faults := by
    obtain ⟨t', hexec', hanswer⟩ := exec_endsAnswered i s
    cases hexec'.symm.trans hexec
    exact h.faults.answered hanswer
  memory := wf_exec h.memory hexec

theorem Inv.takeInput {x : Input} {s t : State} (h : Inv s) (hx : takeInput x s = .next t) : Inv t := by
  cases x with
  | command e =>
    rw [Machine.takeInput] at hx
    split at hx
    next => exact h.exec hx
    next f _ =>
      cases hx
      have hfaults := h.faults.answered (.of_raiseFault s (f := .illegalCommand) (by decide) f.info)
      exact ⟨h.straps, h.sequenced, h.runs, h.decode, h.spatial, hfaults, h.memory⟩
  | reset p | cutShort _ p =>
    obtain ⟨-, rfl⟩ := resetWith_next hx
    exact inv_resetOf h.straps _ _ _ _

/-- What waits at the port is no part of the invariant. -/
theorem Inv.withPort {s : State} (h : Inv s) (port : List Input) : Inv { s with port := port } :=
  ⟨h.straps, h.sequenced, h.runs, h.decode, h.spatial, h.faults, h.memory⟩

/-- Settles O9: every item of input keeps the invariant (`Inv.takeInput`). -/
theorem invariantKept : Obligations.InvariantKept := by
  intro s t h hstep
  rw [step, if_pos h.straps] at hstep
  split at hstep
  next => cases hstep; exact h
  next x rest _ => exact (h.withPort rest).takeInput hstep

end Sys2Proof.Machine
end

section
/-! PROOFS of the family 60_exceptions.md. What a fault changes: nothing but its response and its bit of `FAULTS`,
unless it is a data fault of `DPAY` (R362, R364); and what depends on `FAULTS`: nothing (R363). -/

namespace Sys2Proof.Machine

/-! ## What a response says of the fault (30_encoding.md R95, 60_exceptions.md R358, R363) -/

/-- The status words of the block's faults tell the codes apart. -/
theorem code_eq_of_statusWord_eq : ∀ c ∈ blockCodes, ∀ c' ∈ blockCodes,
    BitVec.ofNat 32 (c * 2 ^ 24) = BitVec.ofNat 32 (c' * 2 ^ 24) → c = c' := by
  decide

/-- None of them is the status word of `OK`. -/
theorem statusWord_ne_zero : ∀ c ∈ blockCodes, BitVec.ofNat 32 (c * 2 ^ 24) ≠ 0#32 := by
  decide

/-- The bits of `FAULTS` that the command with the response `r` sets. -/
def SetsBits (r : Packet) (bits : BitVec 32) : Prop :=
  (bits = 0 ∧ ∃ ws, r = 0#32 :: ws) ∨
    ∃ code ∈ blockCodes, ∃ info, bits = BitVec.ofNat 32 (2 ^ code) ∧
      r = [BitVec.ofNat 32 (code * 2 ^ 24), 1#32, info]

theorem SetsBits.unique {r : Packet} {bits bits' : BitVec 32} (h : SetsBits r bits) (h' : SetsBits r bits') :
    bits' = bits := by
  rcases h with ⟨rfl, ws, rfl⟩ | ⟨code, hcode, info, rfl, rfl⟩ <;>
    rcases h' with ⟨rfl, ws', hr⟩ | ⟨code', hcode', info', rfl, hr⟩
  · rfl
  · exact absurd (List.cons.inj hr).1.symm (statusWord_ne_zero code' hcode')
  · exact absurd (List.cons.inj hr).1 (statusWord_ne_zero code hcode)
  · rw [code_eq_of_statusWord_eq code hcode code' hcode' (List.cons.inj hr).1]

/-- A command leaves one response, so two descriptions of it are of the same packet. -/
theorem response_unique {before after : List Packet} {r r' : Packet} (h : after = before ++ [r])
    (h' : after = before ++ [r']) : r = r' := by
  simpa using h.symm.trans h'

section

variable {i : Instr} {s t : State}

theorem AnsweredOnce.setsBits (h : AnsweredOnce s t) :
    ∃ r bits, SetsBits r bits ∧ t.responses = s.responses ++ [r] ∧ t.faults = s.faults ||| bits := by
  rcases h with ⟨ws, hresponses, hfaults⟩ | ⟨code, hcode, info, hresponses, hfaults⟩
  · exact ⟨_, 0, .inl ⟨rfl, _, rfl⟩, hresponses, by rw [hfaults]; exact BitVec.or_zero.symm⟩
  · exact ⟨_, _, .inr ⟨code, hcode, info, rfl, rfl⟩, hresponses, hfaults⟩

/-- The response determines what a command does to `FAULTS`. -/
theorem AnsweredOnce.faults_eq (h : AnsweredOnce s t) {r : Packet} {bits : BitVec 32} (hbits : SetsBits r bits)
    (hresponses : t.responses = s.responses ++ [r]) : t.faults = s.faults ||| bits := by
  obtain ⟨r', bits', hbits', hresponses', hfaults⟩ := h.setsBits
  obtain rfl := response_unique hresponses hresponses'
  rw [hfaults, hbits.unique hbits']

/-- Every command is answered once, as `exec_endsAnswered` says, of a known outcome. -/
theorem exec_answeredOnce (h : exec i s = .next t) : AnsweredOnce s t := by
  obtain ⟨u, hexec, hanswer⟩ := exec_endsAnswered i s
  cases hexec.symm.trans h
  exact hanswer

theorem OnlyAnswered.eq_answersFault (h : OnlyAnswered s t) (hanswer : AnsweredOnce s t) {code : Nat} {info : Word}
    (hcode : code ∈ blockCodes)
    (hresponses : t.responses = s.responses ++ [[BitVec.ofNat 32 (code * 2 ^ 24), 1#32, info]]) :
    t = answersFault code info s := by
  have hfaults := hanswer.faults_eq (.inr ⟨code, hcode, info, rfl, rfl⟩) hresponses
  unfold OnlyAnswered at h
  rw [hfaults, hresponses] at h
  exact h

/-! ## How a command can end (60_exceptions.md R362, R364) -/

/-- A data fault of `DPAY`, with this code, as far as it is not the same for every command. -/
structure DecodeFaulted (i : Instr) (code : Nat) (s t : State) : Prop where
  command : ∃ es bytes, i = .dpay es bytes
  kind : code = 0x02 ∨ code = 0x04 ∨ code = 0x12
  outn : t.outn = 0
  dsum : ∀ k i, t.dsumAt k i = 0
  response : ∃ info, t.responses = s.responses ++ [[BitVec.ofNat 32 (code * 2 ^ 24), 1#32, info]]

/-- All the ways a command can end: `OK`; with nothing written but the response and `FAULTS`; or with a data fault of
`DPAY`. -/
inductive Ended (i : Instr) (s t : State) : Prop
  | ok (ws : List Word) (h : t.responses = s.responses ++ [0#32 :: ws])
  | answered (h : OnlyAnswered s t)
  | decodeFaulted (code : Nat) (h : DecodeFaulted i code s t)

theorem Ended.of_answersOk {ws : List Word} {u : State} (hu : u.responses = s.responses) :
    Ended i s (answersOk ws u) :=
  .ok _ (by rw [answersOk_responses, hu])

theorem Ended.of_respond {ws : List Word} {u : State} (hu : u.responses = s.responses) : Ended i s (respond ws u) :=
  respond_eq ws u ▸ .of_answersOk hu

theorem setxor_ended {b : Bool} (h : exec (.setxor b) s = .next t) : Ended (.setxor b) s t := by
  obtain ⟨hidle, hbusy⟩ := setxorEffect b s
  by_cases hs : s.estate = .idle
  · cases (hidle hs).symm.trans h
    exact .of_answersOk rfl
  · cases (hbusy hs).symm.trans h
    exact .answered rfl

theorem exec_setsref_of_busy (hs : s.estate ≠ .idle) (k : BitVec 24) (r : Word) :
    exec (.setsref k r) s = .next (answersFault 0x05 (BitVec.ofNat 32 s.j) s) := by
  have heffect := setsrefEffect k r s
  rwa [if_pos hs] at heffect

theorem setsref_ended {k : BitVec 24} {r : Word} (h : exec (.setsref k r) s = .next t) :
    Ended (.setsref k r) s t := by
  by_cases hs : s.estate = .idle
  · rw [exec_setsref_of_idle hs] at h
    cases hoffence : srefOffence k r s <;> rw [hoffence] at h <;> cases h
    · exact .of_answersOk rfl
    · exact .answered rfl
  · cases (exec_setsref_of_busy hs k r).symm.trans h
    exact .answered rfl

theorem esamp_ended {v q : List Word} (h : exec (.esamp v q) s = .next t) : Ended (.esamp v q) s t := by
  obtain ⟨u, more, hexec, hresponses⟩ := exec_esamp_responses v q s
  cases hexec.symm.trans h
  exact .ok _ hresponses

theorem eflush_ended (h : exec .eflush s = .next t) : Ended .eflush s t := by
  by_cases hj : s.j = 0
  · cases ((eflushEffect s).1 hj).symm.trans h
    exact .answered rfl
  · cases (exec_eflush_of_ne hj).symm.trans h
    exact .of_respond (finalise_responses s)

theorem dpay_ended {es : Word} {bytes : List Byte} (h : exec (.dpay es bytes) s = .next t) :
    Ended (.dpay es bytes) s t := by
  obtain ⟨hrefused, hruns⟩ := dpayOutcomes es bytes s
  rcases lt_or_ge 0 es.toInt with hes | hes
  · obtain ⟨u, hexec, hdsum, -, -, -, houtcome⟩ := hruns hes
    cases hexec.symm.trans h
    rcases houtcome with ⟨consumed, -, -, -, -, hresponses⟩ | ⟨code, info, hcode, houtn, -, hresponses⟩
    · exact .ok _ hresponses
    · exact .decodeFaulted code ⟨⟨es, bytes, rfl⟩, hcode, houtn, hdsum, info, hresponses⟩
  · cases (hrefused hes).symm.trans h
    exact .answered rfl

/-- Every command ends in one of these ways. -/
theorem exec_ended (h : exec i s = .next t) : Ended i s t := by
  cases i with
  | setxor b => exact setxor_ended h
  | setsref k r => exact setsref_ended h
  | esamp v q => exact esamp_ended h
  | eflush => exact eflush_ended h
  | ecancel => cases h; exact .of_respond rfl
  | dpay es bytes => exact dpay_ended h
  | s8pack vs => exact .answered ((s8pack_answersAlike vs _).onlyAnswered h)
  | s8unpk ws => exact .answered ((s8unpk_answersAlike ws _).onlyAnswered h)
  | s8unpkn n ws => exact .answered ((s8unpkn_answersAlike n ws _).onlyAnswered h)
  | rdcsr addr => exact .answered (rdcsr_onlyAnswered h)
  | rdout j => exact .answered (rdout_onlyAnswered h)
  | _ => exact .answered (unpackLayout_onlyAnswered h)

/-- A command that ends with a fault writes nothing but `FAULTS` and the response, or is a `DPAY` with a data fault. -/
theorem exec_fault {code : Nat} {info : Word} (hexec : exec i s = .next t) (hcode : code ∈ blockCodes)
    (hresponses : t.responses = s.responses ++ [[BitVec.ofNat 32 (code * 2 ^ 24), 1#32, info]]) :
    t = answersFault code info s ∨ DecodeFaulted i code s t := by
  cases exec_ended hexec with
  | ok ws hok =>
    have hstatus := (List.cons.inj (response_unique hresponses hok)).1
    exact absurd hstatus (statusWord_ne_zero code hcode)
  | answered h => exact .inl (h.eq_answersFault (exec_answeredOnce hexec) hcode hresponses)
  | decodeFaulted code' h =>
    obtain ⟨info', hresponses'⟩ := h.response
    have hcode' : code' ∈ blockCodes := by rcases h.kind with rfl | rfl | rfl <;> decide
    have hstatus := (List.cons.inj (response_unique hresponses hresponses')).1
    rw [code_eq_of_statusWord_eq code hcode code' hcode' hstatus]
    exact .inr h

end

/-- Settles O11: a packet that is no command only gets its answer; a command that faults ends as `exec_fault` says, and
no `DPAY` touches the configuration or the encode side (`exec_changed`). -/
theorem faultsChangeNothingElse : Obligations.FaultsChangeNothingElse := by
  intro s t e rest code info hstraps hport hcode hstep hresponses
  cases hdecode : decode s.straps.C e with
  | error f =>
    cases (step_of_decode_error hstraps hport hdecode).symm.trans hstep
    have honly : OnlyAnswered { s with port := rest } (answersFault 0x10 f.info { s with port := rest }) := rfl
    exact .inl (honly.eq_answersFault (.of_answersFault _ (by decide) _) hcode hresponses)
  | ok i =>
    have hexec := (step_of_decode_ok hstraps hport hdecode).symm.trans hstep
    refine (exec_fault hexec hcode hresponses).imp_right fun hfaulted => ?_
    obtain ⟨⟨es, bytes, rfl⟩, hkind, houtn, hdsum, -⟩ := hfaulted
    have hchanged := exec_changed hexec
    have hfaults := (exec_answeredOnce hexec).faults_eq (.inr ⟨code, hcode, info, rfl, rfl⟩) hresponses
    obtain ⟨htstraps, htport⟩ := hchanged.sameOutside
    exact ⟨⟨es, bytes, rfl⟩, hkind, houtn, hdsum, hfaults, htstraps, htport, hchanged.sameConfig (.inl rfl),
      hchanged.sameEncodeSide rfl⟩

/-! ## With another content of `FAULTS` (60_exceptions.md R363) -/

/-- `s` with the content `f` of `FAULTS`. -/
def withFaults (f : BitVec 32) (s : State) : State := { s with faults := f }

/-- Whatever `FAULTS` holds, `i` goes from `s` to `t`, but for `FAULTS`. -/
def FaultsUnread (i : Instr) (s t : State) : Prop := ∀ f, ∃ g, exec i (withFaults f s) = .next (withFaults g t)

section

variable {i : Instr} {s t : State}

/-! ### The commands of one side do not depend on `FAULTS`, which is on neither -/

theorem OnlyEncoded.eq_withFaults {f : BitVec 32} {t' : State} (h : OnlyEncoded s t)
    (h' : OnlyEncoded (withFaults f s) t') (hside : SameEncodeSide t t') (hresponses : t'.responses = t.responses) :
    t' = withFaults t'.faults t := by
  obtain ⟨hestate, hj, hprev, hres, hrun, hruncnt, -⟩ := hside
  unfold OnlyEncoded at h h'
  rw [hestate, hj, hprev, hres, hrun, hruncnt, hresponses] at h'
  rw [h']
  conv_rhs => rw [h]
  rfl

theorem OnlyDecoded.eq_withFaults {f : BitVec 32} {t' : State} (h : OnlyDecoded s t)
    (h' : OnlyDecoded (withFaults f s) t') (hside : SameDecodeSide t t') (hresponses : t'.responses = t.responses) :
    t' = withFaults t'.faults t := by
  obtain ⟨hdsum, hvalues, hquality, houtn, hepoch⟩ := hside
  unfold OnlyDecoded at h h'
  rw [hdsum, hvalues, hquality, houtn, hepoch, hresponses] at h'
  rw [h']
  conv_rhs => rw [h]
  rfl

theorem encode_faultsUnread (hi : isEncode i = true) (honly : ∀ {s t}, exec i s = .next t → OnlyEncoded s t)
    (hexec : exec i s = .next t) : FaultsUnread i s t := by
  intro f
  obtain ⟨hencode, -⟩ := sidesIgnoreEachOther i s (withFaults f s) t rfl ⟨rfl, rfl⟩ hexec
  obtain ⟨t', r, hexec', hside, hr, hr'⟩ := hencode hi ⟨rfl, rfl, rfl, rfl, rfl, rfl, rfl⟩
  have ht' := (honly hexec).eq_withFaults (honly hexec') hside (hr'.trans hr.symm)
  exact ⟨t'.faults, hexec'.trans (congrArg _ ht')⟩

theorem decode_faultsUnread (hi : isDecode i = true ∨ ∃ j, i = .rdout j)
    (honly : ∀ {s t}, exec i s = .next t → OnlyDecoded s t) (hexec : exec i s = .next t) : FaultsUnread i s t := by
  intro f
  obtain ⟨-, hdecode⟩ := sidesIgnoreEachOther i s (withFaults f s) t rfl ⟨rfl, rfl⟩ hexec
  obtain ⟨t', r, hexec', hside, hr, hr'⟩ := hdecode hi ⟨rfl, rfl, rfl, rfl, rfl⟩
  have ht' := (honly hexec).eq_withFaults (honly hexec') hside (hr'.trans hr.symm)
  exact ⟨t'.faults, hexec'.trans (congrArg _ ht')⟩

theorem OnlyAnswered.onlyDecoded (h : OnlyAnswered s t) : OnlyDecoded s t := by
  unfold OnlyAnswered at h
  rw [h]
  rfl

/-! ### The other commands -/

theorem AnswersAlike.faultsUnread (hi : AnswersAlike i s.straps) (hexec : exec i s = .next t) : FaultsUnread i s t := by
  intro f
  obtain ⟨r, bits, halike⟩ := hi
  cases (halike s rfl).symm.trans hexec
  exact ⟨_, halike (withFaults f s) rfl⟩

theorem unpackLayout_withFaults {sel : BitVec 4} {data : BitVec 60} (h : unpackLayout sel data s = .next t)
    (f : BitVec 32) : ∃ g, unpackLayout sel data (withFaults f s) = .next (withFaults g t) := by
  rw [unpackLayout, answerUnpacked_eq] at h ⊢
  have hstraps : (withFaults f s).straps = s.straps := rfl
  rw [hstraps]
  split_ifs at h ⊢ <;> cases h
  · exact ⟨_, rfl⟩
  · exact ⟨_, rfl⟩

theorem setxor_faultsUnread {b : Bool} (hexec : exec (.setxor b) s = .next t) : FaultsUnread (.setxor b) s t := by
  intro f
  obtain ⟨hidle, hbusy⟩ := setxorEffect b s
  obtain ⟨hidle', hbusy'⟩ := setxorEffect b (withFaults f s)
  by_cases hs : s.estate = .idle
  · cases (hidle hs).symm.trans hexec
    exact ⟨_, hidle' hs⟩
  · cases (hbusy hs).symm.trans hexec
    exact ⟨_, hbusy' hs⟩

theorem setsref_faultsUnread {k : BitVec 24} {r : Word} (hexec : exec (.setsref k r) s = .next t) :
    FaultsUnread (.setsref k r) s t := by
  intro f
  by_cases hs : s.estate = .idle
  · have halike : srefOffence k r (withFaults f s) = srefOffence k r s := rfl
    rw [exec_setsref_of_idle hs] at hexec
    rw [exec_setsref_of_idle (s := withFaults f s) hs, halike]
    cases hoffence : srefOffence k r s <;> rw [hoffence] at hexec <;> cases hexec
    · exact ⟨_, rfl⟩
    · exact ⟨_, rfl⟩
  · cases (exec_setsref_of_busy hs k r).symm.trans hexec
    exact ⟨_, exec_setsref_of_busy (s := withFaults f s) hs k r⟩

theorem csrRead_withFaults {addr : BitVec 24} (haddr : addr ≠ 9#24) (f : BitVec 32) (s : State) :
    csrRead addr (withFaults f s) = csrRead addr s := by
  simp only [csrRead, if_neg haddr]
  rfl

theorem rdcsr_faultsUnread {addr : BitVec 24} (haddr : addr ≠ 9#24) (hexec : exec (.rdcsr addr) s = .next t) :
    FaultsUnread (.rdcsr addr) s t := by
  intro f
  have hread := csrRead_withFaults haddr f s
  cases hv : csrRead addr s with
  | some v =>
    cases (exec_rdcsr_of_some hv).symm.trans hexec
    exact ⟨_, exec_rdcsr_of_some (hread.trans hv)⟩
  | none =>
    cases (exec_rdcsr_of_none hv).symm.trans hexec
    exact ⟨_, exec_rdcsr_of_none (hread.trans hv)⟩

/-- Only the `RDCSR` of `FAULTS` reads it. -/
theorem exec_faultsUnread (hi : i ≠ .rdcsr 9#24) (h : exec i s = .next t) : FaultsUnread i s t := by
  cases i with
  | setxor b => exact setxor_faultsUnread h
  | setsref k r => exact setsref_faultsUnread h
  | rdcsr addr => exact rdcsr_faultsUnread (fun haddr => hi (congrArg _ haddr)) h
  | s8pack vs => exact (s8pack_answersAlike vs _).faultsUnread h
  | s8unpk ws => exact (s8unpk_answersAlike ws _).faultsUnread h
  | s8unpkn n ws => exact (s8unpkn_answersAlike n ws _).faultsUnread h
  | esamp v q => exact encode_faultsUnread rfl esamp_onlyEncoded h
  | eflush => exact encode_faultsUnread rfl eflush_onlyEncoded h
  | ecancel => exact encode_faultsUnread rfl ecancel_onlyEncoded h
  | dpay es bytes => exact decode_faultsUnread (.inl rfl) dpay_onlyDecoded h
  | rdout j => exact decode_faultsUnread (.inr ⟨j, rfl⟩) (fun h => (rdout_onlyAnswered h).onlyDecoded) h
  | _ => exact unpackLayout_withFaults h

end

/-- Settles O12: the run with other `FAULTS` ends alike (`exec_faultsUnread`), so with the same response, and the
response determines the bits set (`AnsweredOnce.faults_eq`). -/
theorem faultsIsOnlyALog : Obligations.FaultsIsOnlyALog := by
  intro i s t hi hexec
  obtain ⟨r, bits, hbits, hresponses, hfaults⟩ := (exec_answeredOnce hexec).setsBits
  refine ⟨bits, ?_, hfaults, fun f => ?_⟩
  · rw [hresponses]
    rcases hbits with ⟨hzero, ws, rfl⟩ | ⟨code, hcode, info, hset, rfl⟩
    · exact .inl ⟨hzero, ws, rfl⟩
    · exact .inr ⟨code, hcode, info, hset, rfl⟩
  · obtain ⟨g, hexec'⟩ := exec_faultsUnread hi hexec f
    have hg : g = f ||| bits := (exec_answeredOnce hexec').faults_eq hbits hresponses
    exact hg ▸ hexec'

end Sys2Proof.Machine
end
